-- ==== Sys2Proof/Word.lean ====
section
/-! DEFINITION. The word type and the names the spec gives to buses, lines, agents, primitives, results and
observations (00_scope.md R4, R10, R12, R17, R18). -/

namespace Sys2Proof

/-- A control-and-status word, 32 bits (00_scope.md R8, `WORD_BITS`). -/
abbrev Word := BitVec 32

/-- An access in the 45-bit `ACC` packing (30_encoding.md R100), in whole bytes; bits 47:45 are no part of it. -/
abbrev AccWord := BitVec 48

/-- The two buses (00_scope.md R4). -/
inductive Bus where
  | i2c
  | ddc
  deriving DecidableEq, Repr

/-- The two lines of a bus (00_scope.md R4, R12). -/
inductive Line where
  | clk
  | dat
  deriving DecidableEq, Repr

/-- Pin direction (10_state.md R34): `input` is the spec's `IN`, `output` its `OUT`. -/
inductive Dir where
  | input
  | output
  deriving DecidableEq, Repr

/-- The agents that run operations (00_scope.md R17): the host and any number of callers. -/
inductive AgentId where
  | host
  | caller (n : Nat)
  deriving DecidableEq, Repr

/-- The four writable bits of one line in a control word (10_state.md R33): `DM`, `D`, `VM`, `V`. -/
structure LineCtl where
  dirEnable : Bool
  dirOut    : Bool
  valEnable : Bool
  valHigh   : Bool
  deriving DecidableEq, Repr

/-- The line primitives (10_state.md R43). -/
inductive Prim where
  | setClock (v : Bool)
  | setData (v : Bool)
  | getClock
  | getData
  deriving DecidableEq, Repr

/-- What an operation returns to its caller (00_scope.md R18 (a), (b); `-> rN` of 30_encoding.md R111). -/
inductive Result where
  /-- The word of a bare `RD32`. -/
  | word (w : Word)
  /-- The Boolean of `GET_CLOCK` or `GET_DATA`. -/
  | level (v : Bool)
  /-- `OPEN` or `ATTACH` succeeded. -/
  | ok
  /-- `Error(MapError, {address})` of `OPEN` or `ATTACH` (60_exceptions.md R251). -/
  | mapError (address : Nat)
  deriving DecidableEq, Repr

/-- The refusal reasons of 60_exceptions.md R253. -/
inductive RefusalReason where
  /-- `R_UNMODELLED_OFFSET` -/
  | unmodelledOffset
  /-- `R_RESERVED_BITS` -/
  | reservedBits
  /-- `R_WIDTH` -/
  | width
  deriving DecidableEq, Repr

/-- One entry of the observation of a run (00_scope.md R18). -/
inductive Obs where
  /-- A `WR32` was issued by `a`. -/
  | write (a : AgentId) (off : Nat) (w : Word)
  /-- A posted write took effect. -/
  | perform (off : Nat) (w : Word)
  /-- An `RD32` by `a` returned `w`. -/
  | read (a : AgentId) (off : Nat) (w : Word)
  /-- An operation of `a` returned a result. -/
  | returned (a : AgentId) (r : Result)
  /-- An operation of `a` was refused. -/
  | refused (a : AgentId) (r : RefusalReason)
  deriving DecidableEq, Repr

end Sys2Proof
end

