-- ==== Sys2Proof/Config.lean ====
section
/-! DEFINITION. The fixed constants (00_scope.md R8), the LineFieldSets and bus names (10_state.md R48, R49), and the
open parameters and free values (00_scope.md R9, R11), which are constants with no body. -/

namespace Sys2Proof.Config

/-! ### Fixed constants (00_scope.md R8) -/

def wordBits : Nat := 32
def ioControlOffset : Nat := 0x5000
def windowLen : Nat := 0x1000
def pageSize : Nat := 0x1000
def resourceIndex : Nat := 1
def nBus : Nat := 2

/-- `UDELAY_CONST`, in the engine's time-units; passed through, read by no rule (41_line_driver.md R199). -/
def udelayConst : Nat := 10

/-- The five masks of one line (10_state.md R48). -/
structure LineMasks where
  dm : Word
  d  : Word
  vm : Word
  v  : Word
  i  : Word
  deriving DecidableEq, Repr

/-- A LineFieldSet: the offset of a bus's word and the masks of its two lines (10_state.md R48). -/
structure LineFieldSet where
  offset : Nat
  clk    : LineMasks
  dat    : LineMasks
  deriving DecidableEq, Repr

/-- The masks of a line, the same for both buses (10_state.md R33, R48). -/
def masks : Line → LineMasks
  | .clk => ⟨0x0001, 0x0002, 0x0004, 0x0008, 0x0010⟩
  | .dat => ⟨0x0100, 0x0200, 0x0400, 0x0800, 0x1000⟩

/-- `LFS_I2C` and `LFS_DDC` (10_state.md R48). -/
def fieldSet : Bus → LineFieldSet
  | .i2c => ⟨0x10, masks .clk, masks .dat⟩
  | .ddc => ⟨0x14, masks .clk, masks .dat⟩

/-- `off(b)`: the window offset of a bus's control word (00_scope.md R12). -/
def off (b : Bus) : Nat := (fieldSet b).offset

/-- The reserved and read-only bits of a written word (30_encoding.md R107). -/
def reservedMask : Word := 0xFFFFF0F0

/-- The name of a bus (10_state.md R49). -/
def busName : Bus → String
  | .i2c => "I810/I815 I2C Adapter"
  | .ddc => "I810/I815 DDC Adapter"

/-! ### Open parameters (00_scope.md R9): each implementation fixes them, so no proof sees their values -/

/-- What `PHYS_ADDR_WIDTH` has above its least value 16 (D2). -/
opaque physAddrExtra : Nat

/-- `PHYS_ADDR_WIDTH`, at least 16. -/
def physAddrWidth : Nat := 16 + physAddrExtra

/-- `SIBLING_GLITCH` (D19). -/
opaque siblingGlitch : Bool

/-- `SPONTANEOUS_SAMPLE` (D14). -/
opaque spontaneousSample : Bool

/-- `MapOracle(address, length, history)`, `true` for ok (40_register_window.md R142, D27). -/
opaque mapOracle : Nat → Nat → List Obs → Bool

/-- `UDELAY_UNIT` and `TIMEOUT_VALUE` (D35); read by no rule. -/
opaque udelayUnit : Nat
opaque timeoutValue : Nat

/-! ### Free values: `draw()` of 00_scope.md R11, applied to the counter State keeps -/

/-- The Boolean draw with a given number. -/
opaque freeDraw : Nat → Bool

/-- Thirty-two draws at once, for a word read (40_register_window.md R148). -/
opaque freeWord : Nat → Word

/-- `peer_low` at reset, a draw of the environment (10_state.md R42). -/
opaque resetPeerLow : Bus → Line → Bool

end Sys2Proof.Config
end

