-- ==== Sys2Proof/Syntax.lean ====
section
/-! DEFINITION. The operations of the block: one constructor for each row of spec/opcode_table.json (00_scope.md R2). -/

namespace Sys2Proof

inductive Instr where
  /-- `WR32 off, word` (40_register_window.md R143). -/
  | wr32 (off : Nat) (word : Word)
  /-- A legal control-word write, field by field (30_encoding.md R102). -/
  | wr32Ctl (b : Bus) (clk dat : LineCtl)
  /-- `RD32 off -> rN` (40_register_window.md R147). -/
  | rd32 (off : Nat)
  /-- `FLUSH off` (40_register_window.md R149). -/
  | flush (off : Nat)
  /-- The named control words of 30_encoding.md R106, each one write. -/
  | setClk1 (b : Bus)
  | setClk0 (b : Bus)
  | setDat1 (b : Bus)
  | setDat0 (b : Bus)
  | relClk (b : Bus)
  | relDat (b : Bus)
  | latch (b : Bus)
  /-- `SETCLK b, 1` and `SETCLK b, 0` (41_line_driver.md R189). -/
  | primSetClk1 (b : Bus)
  | primSetClk0 (b : Bus)
  /-- `SETDAT b, 1` and `SETDAT b, 0` (41_line_driver.md R190). -/
  | primSetDat1 (b : Bus)
  | primSetDat0 (b : Bus)
  /-- `GETCLK b -> rN` (41_line_driver.md R191). -/
  | primGetClk (b : Bus)
  /-- `GETDAT b -> rN` (41_line_driver.md R192). -/
  | primGetDat (b : Bus)
  /-- `OPEN phys` (40_register_window.md R140). -/
  | openWin (phys : Nat)
  /-- `CLOSE` (40_register_window.md R150). -/
  | close
  /-- `ATTACH phys` (42_lifecycle.md R230). -/
  | attach (phys : Nat)
  /-- `DETACH` (42_lifecycle.md R234). -/
  | detach
  deriving DecidableEq, Repr

end Sys2Proof
end

