-- ==== Sys2Proof/WellFormed.lean ====
section
/-! DEFINITION. Which terms are operations of the block, and which of them the `ACC` packing can carry. -/

namespace Sys2Proof

/-- Every operand lies in its type: `phys` is a `UInt(PHYS_ADDR_WIDTH)` (40_register_window.md R140, 42_lifecycle.md
R230). An offset may be any number: a bad one is faulted when it is used (30_encoding.md R101). -/
def Instr.wellFormed : Instr → Bool
  | .openWin phys | .attach phys => decide (phys < 2 ^ Config.physAddrWidth)
  | .wr32 _ _ | .wr32Ctl _ _ _ | .rd32 _ | .flush _ | .setClk1 _ | .setClk0 _ | .setDat1 _ | .setDat0 _
  | .relClk _ | .relDat _ | .latch _ | .primSetClk1 _ | .primSetClk0 _ | .primSetDat1 _ | .primSetDat0 _
  | .primGetClk _ | .primGetDat _ | .close | .detach => true

/-- The offset fits the 12 bits the `ACC` packing gives it (30_encoding.md R100). -/
def Instr.encodable : Instr → Bool
  | .wr32 off _ | .rd32 off | .flush off => decide (off < 0x1000)
  | .wr32Ctl _ _ _ | .setClk1 _ | .setClk0 _ | .setDat1 _ | .setDat0 _
  | .relClk _ | .relDat _ | .latch _ | .primSetClk1 _ | .primSetClk0 _ | .primSetDat1 _ | .primSetDat0 _
  | .primGetClk _ | .primGetDat _ | .openWin _ | .close | .attach _ | .detach => true

end Sys2Proof
end

