-- ==== Sys2Proof/Decode.lean ====
section
/-! DEFINITION. Word assembly (30_encoding.md R101 to R106), the decoder of the 45-bit `ACC` packing (R100, R109), and
the encoder: the accesses an operation expands to (R112). -/

namespace Sys2Proof

/-! ### Fields and words -/

/-- Is any bit of the mask set in the word? -/
def bitSet (w mask : Word) : Bool := (w &&& mask) != 0

/-- The bus whose control word is at an offset (30_encoding.md R101). -/
def busAt (off : Nat) : Option Bus :=
  if off = Config.off .i2c then some .i2c
  else if off = Config.off .ddc then some .ddc
  else none

/-- The four writable bits of one line, read from a word (10_state.md R33). -/
def lineFields (w : Word) (l : Line) : LineCtl :=
  { dirEnable := bitSet w (Config.masks l).dm
    dirOut    := bitSet w (Config.masks l).d
    valEnable := bitSet w (Config.masks l).vm
    valHigh   := bitSet w (Config.masks l).v }

/-- The part of a control word that holds one line's fields (30_encoding.md R102). -/
def lineWord (l : Line) (c : LineCtl) : Word :=
  (if c.dirEnable then (Config.masks l).dm else 0) ||| (if c.dirOut then (Config.masks l).d else 0) |||
  (if c.valEnable then (Config.masks l).vm else 0) ||| (if c.valHigh then (Config.masks l).v else 0)

/-- The control word with the given fields (30_encoding.md R102). -/
def ctlWord (clk dat : LineCtl) : Word := lineWord .clk clk ||| lineWord .dat dat

/-- `setWord(l, v)` (30_encoding.md R103). -/
def setWord (l : Line) (v : Bool) : Word :=
  (Config.masks l).dm ||| (Config.masks l).d ||| (Config.masks l).vm ||| (if v then (Config.masks l).v else 0)

/-- `relWord(l)` (30_encoding.md R104). -/
def relWord (l : Line) : Word := (Config.masks l).dm

/-- The latch word (30_encoding.md R105). -/
def latchWord : Word := 0

/-! ### Decoding -/

/-- Why a word encodes no access. -/
inductive Reject where
  /-- A bit above the 45 of the packing is set. -/
  | beyondPacking
  /-- A read whose value field is not 0 (30_encoding.md R100). -/
  | readWithValue
  deriving DecidableEq, Repr

/-- A legal control word by its name, by exact match against 30_encoding.md R106, or as a generic `CTL` (R109). -/
def nameWord (b : Bus) (w : Word) : Instr :=
  if w = setWord .clk true then .setClk1 b
  else if w = setWord .clk false then .setClk0 b
  else if w = setWord .dat true then .setDat1 b
  else if w = setWord .dat false then .setDat0 b
  else if w = relWord .clk then .relClk b
  else if w = relWord .dat then .relDat b
  else if w = latchWord then .latch b
  else .wr32Ctl b (lineFields w .clk) (lineFields w .dat)

/-- A write: first the offset, then the reserved bits, then the name (30_encoding.md R109). -/
def nameWrite (off : Nat) (w : Word) : Instr :=
  match busAt off with
  | none   => .wr32 off w
  | some b => if bitSet w Config.reservedMask then .wr32 off w else nameWord b w

/-- The access an `ACC` word encodes: bit 44 is the kind, bits 43:32 the offset, bits 31:0 the value (30_encoding.md
R100). A read decodes to `RD32`: `FLUSH` has the same words (40_register_window.md R149). -/
def decode (w : AccWord) : Except Reject Instr :=
  if w.extractLsb' 45 3 ≠ 0 then .error .beyondPacking
  else
    let off := (w.extractLsb' 32 12).toNat
    let value : Word := w.extractLsb' 0 32
    if w.extractLsb' 44 1 = 1 then .ok (nameWrite off value)
    else if value = 0 then .ok (.rd32 off)
    else .error .readWithValue

/-- What the decoder reads from a word numbered as spec/opcode_table.json numbers it. -/
def decodeTableWord (nbits w : Nat) : Option Instr :=
  if w < 2 ^ nbits ∧ w < 2 ^ 48 then
    match decode (BitVec.ofNat 48 w) with
    | .ok i    => some i
    | .error _ => none
  else none

/-! ### Encoding -/

/-- An `ACC` word from its three fields (30_encoding.md R100). -/
def accWord (write : Bool) (off : Nat) (value : Word) : AccWord :=
  0#3 ++ (BitVec.ofBool write ++ (BitVec.ofNat 12 off ++ value))

/-- The accesses an operation issues, in order (30_encoding.md R106, R112; 42_lifecycle.md R230). `OPEN`, `CLOSE` and
`DETACH` issue none. -/
def expansion : Instr → List Instr
  | .flush off     => [.rd32 off]
  | .primSetClk1 b => [.setClk1 b, .rd32 (Config.off b)]
  | .primSetClk0 b => [.setClk0 b, .rd32 (Config.off b)]
  | .primSetDat1 b => [.setDat1 b, .rd32 (Config.off b)]
  | .primSetDat0 b => [.setDat0 b, .rd32 (Config.off b)]
  | .primGetClk b  => [.relClk b, .latch b, .rd32 (Config.off b)]
  | .primGetDat b  => [.relDat b, .latch b, .rd32 (Config.off b)]
  | .openWin _     => []
  | .close         => []
  | .attach _      =>
      [.setClk1 .i2c, .rd32 (Config.off .i2c), .setDat1 .i2c, .rd32 (Config.off .i2c),
       .setClk1 .ddc, .rd32 (Config.off .ddc), .setDat1 .ddc, .rd32 (Config.off .ddc)]
  | .detach        => []
  | .wr32 off w    => [.wr32 off w]
  | .wr32Ctl b c d => [.wr32Ctl b c d]
  | .rd32 off      => [.rd32 off]
  | .setClk1 b     => [.setClk1 b]
  | .setClk0 b     => [.setClk0 b]
  | .setDat1 b     => [.setDat1 b]
  | .setDat0 b     => [.setDat0 b]
  | .relClk b      => [.relClk b]
  | .relDat b      => [.relDat b]
  | .latch b       => [.latch b]

/-- The `ACC` word of a single access; `none` for an operation that is no single access. -/
def accessWord : Instr → Option AccWord
  | .wr32 off w    => some (accWord true off w)
  | .wr32Ctl b c d => some (accWord true (Config.off b) (ctlWord c d))
  | .rd32 off      => some (accWord false off 0)
  | .flush off     => some (accWord false off 0)
  | .setClk1 b     => some (accWord true (Config.off b) (setWord .clk true))
  | .setClk0 b     => some (accWord true (Config.off b) (setWord .clk false))
  | .setDat1 b     => some (accWord true (Config.off b) (setWord .dat true))
  | .setDat0 b     => some (accWord true (Config.off b) (setWord .dat false))
  | .relClk b      => some (accWord true (Config.off b) (relWord .clk))
  | .relDat b      => some (accWord true (Config.off b) (relWord .dat))
  | .latch b       => some (accWord true (Config.off b) latchWord)
  | .primSetClk1 _ | .primSetClk0 _ | .primSetDat1 _ | .primSetDat0 _ | .primGetClk _ | .primGetDat _
  | .openWin _ | .close | .attach _ | .detach => none

/-- The words of an operation: those of its accesses, in order. -/
def encode (i : Instr) : List AccWord := (expansion i).filterMap accessWord

/-- The name the decoder gives to an access that has more than one (30_encoding.md R109). -/
def canonical : Instr → Instr
  | .wr32 off w    => nameWrite off w
  | .wr32Ctl b c d => nameWord b (ctlWord c d)
  | .flush off     => .rd32 off
  | .rd32 off      => .rd32 off
  | .setClk1 b     => .setClk1 b
  | .setClk0 b     => .setClk0 b
  | .setDat1 b     => .setDat1 b
  | .setDat0 b     => .setDat0 b
  | .relClk b      => .relClk b
  | .relDat b      => .relDat b
  | .latch b       => .latch b
  | .primSetClk1 b => .primSetClk1 b
  | .primSetClk0 b => .primSetClk0 b
  | .primSetDat1 b => .primSetDat1 b
  | .primSetDat0 b => .primSetDat0 b
  | .primGetClk b  => .primGetClk b
  | .primGetDat b  => .primGetDat b
  | .openWin p     => .openWin p
  | .close         => .close
  | .attach p      => .attach p
  | .detach        => .detach

end Sys2Proof
end

