-- ==== Sys2Proof/Machine/State.lean ====
section
/-! DEFINITION. The state of the machine (10_state.md R30), the reasons a step can stop, and the state after reset
(70_reset_and_hazards.md R290). -/

namespace Sys2Proof.Machine

/-! ### Containers over buses and lines -/

/-- One value for each bus. -/
structure PerBus (α : Type) where
  i2c : α
  ddc : α
  deriving DecidableEq, Repr

/-- One value for each of the four lines. -/
structure PerLine (α : Type) where
  i2cClk : α
  i2cDat : α
  ddcClk : α
  ddcDat : α
  deriving DecidableEq, Repr

/-! ### The register window (10_state.md R40) -/

inductive WinStatus where
  | unopened
  | mapped
  | closed
  deriving DecidableEq, Repr

structure Window where
  status : WinStatus
  base   : Option Nat
  deriving DecidableEq, Repr

/-! ### Buses and agents -/

/-- A registered LogicalBus: its name and its bus, which fixes its LineFieldSet (10_state.md R45, R48). -/
structure LogicalBus where
  name : String
  bus  : Bus
  deriving DecidableEq, Repr

/-- Sequencer state (10_state.md R43): `r` is the last read value. -/
inductive SeqState where
  | idle
  | busy (prim : Prim) (bus : Bus) (step : Nat) (r : Option Word)
  deriving DecidableEq, Repr

/-- A single-step operation whose caller waits because it held (00_scope.md R11 `hold`). -/
inductive HeldOp where
  | read (off : Nat)
  | flush (off : Nat)
  | close
  deriving DecidableEq, Repr

/-- Where an `ATTACH` stands (42_lifecycle.md R230): about to start or inside one of the four idle-initialisation
primitives, or before one of the two registrations, or before its return. -/
inductive AttachStage where
  | initI2cClk
  | initI2cDat
  | initDdcClk
  | initDdcDat
  | registerI2c
  | registerDdc
  | finish
  deriving DecidableEq, Repr

/-- What an agent is engaged in between its steps, beside a primitive. -/
inductive Task where
  | none
  | waiting (op : HeldOp)
  | attach (stage : AttachStage)
  /-- The buses a `DETACH` has still to unregister, next first; then its `CLOSE`. -/
  | detach (remaining : List LogicalBus)
  deriving DecidableEq, Repr

/-- Everything an agent has of its own. `stopped` agents take no further step (60_exceptions.md R253, R256). -/
structure AgentRec where
  seq     : SeqState
  task    : Task
  stopped : Bool
  deriving DecidableEq, Repr

/-- An agent at rest: `Idle`, engaged in nothing, not stopped. -/
def AgentRec.atRest : AgentRec := { seq := .idle, task := .none, stopped := false }

/-! ### Faults (60_exceptions.md R252, R256) -/

/-- The fault reasons with their recorded values. -/
inductive FaultReason where
  /-- `F_NO_WINDOW`: the offset, and the word for `WR32`. -/
  | noWindow (off : Nat) (word : Option Word)
  /-- `F_MISALIGNED` -/
  | misaligned (off : Nat)
  /-- `F_BAD_OFFSET` -/
  | badOffset (off : Nat)
  /-- `F_DOUBLE_OPEN`: the existing base. -/
  | doubleOpen (base : Option Nat)
  /-- `F_TEARDOWN_ORDER`: the registered bus names and the busy agents. -/
  | teardownOrder (buses : List String) (busy : List AgentId)
  /-- `F_NO_BUS`: the bus and the primitive. -/
  | noBus (b : Bus) (p : Prim)
  deriving DecidableEq, Repr

/-- A member of `faults`: the reason, and the agent and micro-step that raised it. -/
structure FaultRecord where
  reason : FaultReason
  agent  : AgentId
  step   : Nat
  deriving DecidableEq, Repr

/-! ### What can move next (00_scope.md R17) -/

/-- What an agent at rest asks for: a bus access of some width in the `ACC` packing, or the call of an operation
(30_encoding.md R100, R111). -/
inductive Request where
  | acc (width : Nat) (w : AccWord)
  | call (i : Instr)
  deriving DecidableEq, Repr

/-- One scheduled step. -/
inductive Event where
  /-- An agent issues an operation. -/
  | request (a : AgentId) (r : Request)
  /-- An agent takes the next micro-step of what it is engaged in (10_state.md R44). -/
  | micro (a : AgentId)
  /-- The posting path of a bus's offset performs its oldest write (20_memory.md R79). -/
  | post (b : Bus)
  /-- A peer step (41_line_driver.md R184). -/
  | peer (b : Bus) (l : Line) (low : Bool)
  /-- A settle step (41_line_driver.md R185). -/
  | settle (b : Bus) (l : Line)
  /-- A spontaneous sample (41_line_driver.md R186). -/
  | sample (b : Bus) (l : Line)
  deriving DecidableEq, Repr

/-! ### The state -/

/-- The record of 10_state.md R30, and after it the model's own fields: the schedule, the agent whose step is
running, the number of draws taken, and the observation (newest first). `agents` lists the agents that are not at
rest, in rising order of `agentKey`. -/
structure State where
  win      : Window
  dir      : PerLine (Option Dir)
  out      : PerLine (Option Bool)
  inl      : PerLine (Option Bool)
  pend     : PerBus (List Word)
  peerLow  : PerLine Bool
  settled  : PerLine Bool
  agents   : List (AgentId × AgentRec)
  buses    : List LogicalBus
  attached : Bool
  faults   : List FaultRecord
  refused  : Bool
  schedule : List Event
  actor    : AgentId
  draws    : Nat
  trace    : List Obs
  deriving DecidableEq, Repr

/-- Why the machine itself stops. The spec's faults do NOT stop it: they are recorded in `faults` (60_exceptions.md
R256). -/
inductive Fault where
  /-- Raised by a micro-step of an agent whose sequencer state no run reaches: a step index the primitive has not,
  a result with no word read, or a primitive beside a task that runs none. Safe: 10_state.md R43 excludes such states. -/
  | badSequencerState
  deriving DecidableEq, Repr

/-- Why the machine gives a request no meaning. The spec's refusals do NOT end a run: they set `refused`
(60_exceptions.md R253). -/
inductive Refusal where
  /-- Raised by `exec` for an instruction with no meaning yet. Safe. -/
  | notModelled (mnemonic : String)
  /-- Raised by the request, of an agent at rest, whose word no row of the opcode table encodes. Safe. -/
  | undecodable (r : Reject)
  deriving DecidableEq, Repr

/-- The outcome of a meaning or of a step. -/
abbrev Outcome := Host.Outcome State Fault Refusal

/-- The state right after reset (70_reset_and_hazards.md R290). -/
def State.reset : State where
  win      := { status := .unopened, base := none }
  dir      := ⟨none, none, none, none⟩
  out      := ⟨none, none, none, none⟩
  inl      := ⟨none, none, none, none⟩
  pend     := ⟨[], []⟩
  peerLow  := ⟨Config.resetPeerLow .i2c .clk, Config.resetPeerLow .i2c .dat,
               Config.resetPeerLow .ddc .clk, Config.resetPeerLow .ddc .dat⟩
  settled  := ⟨false, false, false, false⟩
  agents   := []
  buses    := []
  attached := false
  faults   := []
  refused  := false
  schedule := []
  actor    := .host
  draws    := 0
  trace    := []

end Sys2Proof.Machine
end

