-- ==== Sys2Proof/Machine/Operands.lean ====
section
/-! DEFINITION. Operand forms: the window offset with its checks in the order of 60_exceptions.md R255, the window address
(40_register_window.md R141), and the words a primitive writes (41_line_driver.md R189 to R192). -/

namespace Sys2Proof.Machine

/-! ### Accessors of the containers -/

def PerBus.get {α : Type} (m : PerBus α) : Bus → α
  | .i2c => m.i2c
  | .ddc => m.ddc

def PerBus.set {α : Type} (m : PerBus α) (b : Bus) (x : α) : PerBus α :=
  match b with
  | .i2c => { m with i2c := x }
  | .ddc => { m with ddc := x }

def PerLine.get {α : Type} (m : PerLine α) : Bus → Line → α
  | .i2c, .clk => m.i2cClk
  | .i2c, .dat => m.i2cDat
  | .ddc, .clk => m.ddcClk
  | .ddc, .dat => m.ddcDat

def PerLine.set {α : Type} (m : PerLine α) (b : Bus) (l : Line) (x : α) : PerLine α :=
  match b, l with
  | .i2c, .clk => { m with i2cClk := x }
  | .i2c, .dat => { m with i2cDat := x }
  | .ddc, .clk => { m with ddcClk := x }
  | .ddc, .dat => { m with ddcDat := x }

/-- The four lines' values from a function of bus and line. -/
def PerLine.ofFn {α : Type} (f : Bus → Line → α) : PerLine α :=
  ⟨f .i2c .clk, f .i2c .dat, f .ddc .clk, f .ddc .dat⟩

/-! ### The offset operand -/

/-- What the checks of an access answer. -/
inductive Verdict where
  | fault (r : FaultReason)
  | refuse (r : RefusalReason)
  | ok (b : Bus)
  deriving DecidableEq, Repr

/-- The checks of an access at an offset, `w` the word of a write, in the order of 60_exceptions.md R255 (the hold of a
read comes after them; 40_register_window.md R143, R147). -/
def checkAccess (status : WinStatus) (off : Nat) (w : Option Word) : Verdict :=
  if status ≠ .mapped then .fault (.noWindow off w)
  else if off % 4 ≠ 0 then .fault (.misaligned off)
  else if off + 4 > Config.windowLen then .fault (.badOffset off)
  else
    match busAt off with
    | none   => .refuse .unmodelledOffset
    | some b => if bitSet (w.getD 0) Config.reservedMask then .refuse .reservedBits else .ok b

/-- The physical address of an access (20_memory.md R76, 40_register_window.md R152). -/
def effectiveAddress (win : Window) (off : Nat) : Option Nat := win.base.map (· + off)

/-! ### The window address -/

/-- `PAGE_MASK` for an address width (00_scope.md R8, D3). -/
def pageMask (width : Nat) : Nat := (2 ^ width - 1) ^^^ (Config.pageSize - 1)

/-- `WindowAddress(phys, 0x5000, PAGE_MASK)` (40_register_window.md R141). -/
def windowAddress (width phys : Nat) : Bool × Nat :=
  let sum := phys + Config.ioControlOffset
  if sum ≥ 2 ^ width then (false, sum) else (true, sum &&& pageMask width)

/-! ### Micro-sequences of the primitives -/

/-- One micro-step before the return of a primitive. -/
inductive MicroOp where
  | write (w : Word)
  | read
  deriving DecidableEq, Repr

/-- The micro-steps of a primitive before its return (41_line_driver.md R189 to R192). -/
def microOps : Prim → List MicroOp
  | .setClock v => [.write (setWord .clk v), .read]
  | .setData v  => [.write (setWord .dat v), .read]
  | .getClock   => [.write (relWord .clk), .write latchWord, .read]
  | .getData    => [.write (relWord .dat), .write latchWord, .read]

/-- The line whose input bit a primitive returns; `none` for the `SET_*` (41_line_driver.md R191, R192). -/
def resultLine : Prim → Option Line
  | .setClock _ => none
  | .setData _  => none
  | .getClock   => some .clk
  | .getData    => some .dat

/-- The test of the input bit in a read word (40_register_window.md R151 (3)). -/
def inputBit (l : Line) (w : Word) : Bool := bitSet w (Config.masks l).i

end Sys2Proof.Machine
end

