-- ==== Sys2Proof/Machine/Flags.lean ====
section
/-! DEFINITION. Status. The block has no flags (10_state.md R32): its only status is the state of the four lines, which
the input latch captures. Drive, level, settling and sampling (41_line_driver.md R181 to R183, R187). -/

namespace Sys2Proof.Machine

/-- The block's output stage for one line (41_line_driver.md R181). -/
inductive Drive where
  | low
  | high
  | released
  | unknown
  deriving DecidableEq, Repr

/-- The resolved level of a line; `x` may be sampled as either value (41_line_driver.md R182). -/
inductive Level where
  | zero
  | one
  | x
  deriving DecidableEq, Repr

/-- 41_line_driver.md R181, from the two latches. -/
def driveOf : Option Dir → Option Bool → Drive
  | none,         _          => .unknown
  | some .input,  _          => .released
  | some .output, none       => .unknown
  | some .output, some false => .low
  | some .output, some true  => .high

/-- 41_line_driver.md R182, from the drive, the peer and the settle bit. -/
def levelOf : Drive → Bool → Bool → Level
  | .low,      _,     _     => .zero
  | .unknown,  _,     _     => .x
  | .high,     true,  _     => .x
  | .high,     false, _     => .one
  | .released, true,  _     => .zero
  | .released, false, true  => .one
  | .released, false, false => .x

/-- The new settle bit of a line (41_line_driver.md R183). -/
def settledOf : Drive → Bool → Bool → Bool
  | .high,     false, _   => true
  | .released, false, old => old
  | .high,     true,  _   => false
  | .released, true,  _   => false
  | .low,      _,     _   => false
  | .unknown,  _,     _   => false

/-- 41_line_driver.md R187: level X samples as the draw. -/
def sampleOf : Level → Bool → Bool
  | .zero, _    => false
  | .one,  _    => true
  | .x,    draw => draw

def State.drive (s : State) (b : Bus) (l : Line) : Drive := driveOf (s.dir.get b l) (s.out.get b l)

def State.level (s : State) (b : Bus) (l : Line) : Level :=
  levelOf (s.drive b l) (s.peerLow.get b l) (s.settled.get b l)

/-- `LineUpdate()` over all four lines (41_line_driver.md R183). -/
def lineUpdate (s : State) : State :=
  { s with settled := .ofFn fun b l => settledOf (s.drive b l) (s.peerLow.get b l) (s.settled.get b l) }

/-- `sample(b, l)` with a given draw. -/
def State.sample (s : State) (b : Bus) (l : Line) (draw : Bool) : Bool := sampleOf (s.level b l) draw

end Sys2Proof.Machine
end

