-- ==== Sys2Proof/Machine/Ops.lean ====
section
/-! DEFINITION. The operations the meanings share: agents, fault and refusal entry (60_exceptions.md R253, R256), issuing,
performing and reading a control word (40_register_window.md R143 to R149), mapping and unmapping the window (R140 to
R142, R150), and the steps that only one agent takes at rest (00_scope.md R17). -/

namespace Sys2Proof.Machine

/-! ### Agents -/

/-- The order of the agents in the list State keeps. -/
def agentKey : AgentId → Nat
  | .host     => 0
  | .caller n => n + 1

/-- An agent's record; one that is not listed is at rest. -/
def lookupAgent (a : AgentId) : List (AgentId × AgentRec) → AgentRec
  | []             => .atRest
  | (k, r) :: rest => if k = a then r else lookupAgent a rest

/-- The list with an agent's record replaced, in its canonical form. -/
def insertAgent (a : AgentId) (r : AgentRec) : List (AgentId × AgentRec) → List (AgentId × AgentRec)
  | [] => if r = .atRest then [] else [(a, r)]
  | (k, q) :: rest =>
    if k = a then (if r = .atRest then rest else (a, r) :: rest)
    else if agentKey a < agentKey k then (if r = .atRest then (k, q) :: rest else (a, r) :: (k, q) :: rest)
    else (k, q) :: insertAgent a r rest

/-- The canonical form: keys strictly rising, and no agent at rest listed. -/
def agentsWf (l : List (AgentId × AgentRec)) : Bool :=
  decide (l.Pairwise fun x y => agentKey x.1 < agentKey y.1) && l.all (fun x => decide (x.2 ≠ .atRest))

def State.agent (s : State) (a : AgentId) : AgentRec := lookupAgent a s.agents

def State.setAgent (s : State) (a : AgentId) (r : AgentRec) : State := { s with agents := insertAgent a r s.agents }

/-- The acting agent's record. -/
def State.me (s : State) : AgentRec := s.agent s.actor

def State.setMe (s : State) (r : AgentRec) : State := s.setAgent s.actor r

def State.setSeq (s : State) (q : SeqState) : State := s.setMe { s.me with seq := q }

def State.setTask (s : State) (t : Task) : State := s.setMe { s.me with task := t }

def SeqState.isBusy : SeqState → Bool
  | .idle         => false
  | .busy _ _ _ _ => true

/-- The micro-step index (10_state.md R43); 0 outside a primitive. -/
def SeqState.index : SeqState → Nat
  | .idle         => 0
  | .busy _ _ k _ => k

/-- The agents with a primitive in flight (40_register_window.md R150). -/
def State.busyAgents (s : State) : List AgentId := (s.agents.filter fun x => x.2.seq.isBusy).map Prod.fst

/-- Does the agent stand outside the primitives of an `ATTACH` that goes on: before a primitive's start, a registration or
the return (42_lifecycle.md R230)? -/
def AgentRec.betweenPrims (r : AgentRec) : Bool :=
  match r.seq, r.task with
  | .idle,         .attach _  => !r.stopped
  | .idle,         .none      => false
  | .idle,         .waiting _ => false
  | .idle,         .detach _  => false
  | .busy _ _ _ _, _          => false

/-- The agent that has the turn whatever is scheduled: one whose `ATTACH` stands outside its primitives (DESIGN CHOICE,
assumption log 29). -/
def State.attachTurn (s : State) : Option AgentId := (s.agents.find? fun x => (s.agent x.1).betweenPrims).map Prod.fst

/-- The agents without those whose turn that would be. -/
def State.yieldTurns (s : State) : List (AgentId × AgentRec) := s.agents.filter fun x => !(s.agent x.1).betweenPrims

/-- Is a bus registered (41_line_driver.md R180)? -/
def State.registered (s : State) (b : Bus) : Bool := s.buses.any fun x => x.bus = b

/-- An operation starts only from rest; an agent that is engaged or stopped has no such step (41_line_driver.md R180,
60_exceptions.md R256), so nothing happens. -/
def whenAtRest (f : State → Outcome) (s : State) : Outcome := if s.me = .atRest then f s else .next s

/-! ### Fault and refusal entry -/

/-- A set of fault records, as a list with no repeats. -/
def addFault (r : FaultRecord) (l : List FaultRecord) : List FaultRecord := if r ∈ l then l else r :: l

/-- `raise Fault(reason)` (60_exceptions.md R256): the reason, the agent and its micro-step are recorded, the agent
stops, and nothing else changes. There is no return from it (R257). -/
def raiseFault (r : FaultReason) (s : State) : State :=
  { s with
    faults := addFault { reason := r, agent := s.actor, step := s.me.seq.index } s.faults
    agents := insertAgent s.actor { s.me with stopped := true } s.agents }

/-- `refuse(reason)` (60_exceptions.md R253): the mark is set and the agent takes no further step. -/
def refuseOp (r : RefusalReason) (s : State) : State :=
  { s with
    refused := true
    agents  := insertAgent s.actor { s.me with stopped := true } s.agents
    trace   := .refused s.actor r :: s.trace }

/-- A result goes back to the acting agent (00_scope.md R18). -/
def deliver (r : Result) (s : State) : State := { s with trace := .returned s.actor r :: s.trace }

/-! ### Writing a control word -/

/-- An issued write joins its queue (40_register_window.md R143). -/
def postWrite (b : Bus) (off : Nat) (w : Word) (s : State) : State :=
  { s with
    pend  := s.pend.set b (s.pend.get b ++ [w])
    trace := .write s.actor off w :: s.trace }

/-- `WR32 off, w`, and then `k` (40_register_window.md R143). -/
def writeThen (off : Nat) (w : Word) (k : State → State) (s : State) : Outcome :=
  match checkAccess s.win.status off (some w) with
  | .fault r  => .next (raiseFault r s)
  | .refuse r => .next (refuseOp r s)
  | .ok b     => .next (k (postWrite b off w s))

/-- The field update of `PerformWrite`: a field changes only when its enable bit is set (40_register_window.md R144,
10_state.md R37). -/
def updateFields (b : Bus) (w : Word) (s : State) : State :=
  { s with
    dir := .ofFn fun b' l =>
      if b' = b ∧ (lineFields w l).dirEnable then some (if (lineFields w l).dirOut then .output else .input)
      else s.dir.get b' l
    out := .ofFn fun b' l =>
      if b' = b ∧ (lineFields w l).valEnable then some (lineFields w l).valHigh
      else s.out.get b' l }

/-- The value `Capture` leaves in one input latch (40_register_window.md R145). `choice` is the draw of a non-zero
write's capture, or of a glitched one; `x` the draw of a sample at level X. -/
def captured (glitch : Bool) (w : Word) (d : Drive) (lv : Level) (choice x : Bool) (old : Option Bool) : Option Bool :=
  if w = latchWord then
    if (d == .low || d == .high) && glitch then some choice else some (sampleOf lv x)
  else if choice then some (sampleOf lv x) else old

/-- The number of a line, which keeps the draws of two lines apart. -/
def lineIndex : Line → Nat
  | .clk => 0
  | .dat => 1

/-- `Capture(b, w)` for a value of `SIBLING_GLITCH`; it takes two draws for each line (40_register_window.md R145). -/
def captureWith (glitch : Bool) (b : Bus) (w : Word) (s : State) : State :=
  { s with
    inl := .ofFn fun b' l =>
      if b' = b then
        captured glitch w (s.drive b' l) (s.level b' l)
          (Config.freeDraw (s.draws + 2 * lineIndex l)) (Config.freeDraw (s.draws + 2 * lineIndex l + 1))
          (s.inl.get b' l)
      else s.inl.get b' l
    draws := s.draws + 4 }

/-- `PerformWrite(off(b), w)` for a value of `SIBLING_GLITCH` (40_register_window.md R144). -/
def performWith (glitch : Bool) (b : Bus) (w : Word) (s : State) : State :=
  captureWith glitch b w (lineUpdate (updateFields b w s))

def performWrite (b : Bus) (w : Word) (s : State) : State := performWith Config.siblingGlitch b w s

/-! ### Reading a control word -/

/-- `ReadValue(b)` (40_register_window.md R148): the input latches in bits `I_CLK` and `I_DAT`, a draw in every other
bit and in place of a latch never captured. -/
def readValue (b : Bus) (s : State) : Word :=
  let clk := (s.inl.get b .clk).getD (Config.freeDraw s.draws)
  let dat := (s.inl.get b .dat).getD (Config.freeDraw (s.draws + 1))
  (Config.freeWord s.draws &&& ~~~((Config.masks .clk).i ||| (Config.masks .dat).i)) |||
    (if clk then (Config.masks .clk).i else 0) ||| (if dat then (Config.masks .dat).i else 0)

/-- What a completed read leaves: draws taken and the access observed, nothing else (20_memory.md R74). -/
def noteRead (off : Nat) (v : Word) (s : State) : State :=
  { s with draws := s.draws + 2, trace := .read s.actor off v :: s.trace }

/-- `RD32 off`, and then `k` with the word; `held` when writes to the same offset are pending (40_register_window.md
R147). -/
def readThen (off : Nat) (held : State → State) (k : Word → State → State) (s : State) : Outcome :=
  match checkAccess s.win.status off none with
  | .fault r  => .next (raiseFault r s)
  | .refuse r => .next (refuseOp r s)
  | .ok b     =>
    if s.pend.get b = [] then .next (k (readValue b s) (noteRead off (readValue b s) s))
    else .next (held s)

/-! ### Opening and closing the window -/

/-- `OPEN phys`, and on success `onOk` (40_register_window.md R140 to R142). -/
def openThen (phys : Nat) (onOk : State → State) (s : State) : Outcome :=
  if s.win.status = .mapped then .next (raiseFault (.doubleOpen s.win.base) s)
  else
    match windowAddress Config.physAddrWidth phys with
    | (false, sum)    => .next (deliver (.mapError sum) s)
    | (true, address) =>
      if Config.mapOracle address Config.windowLen s.trace then
        .next (onOk { s with win := { status := .mapped, base := some address } })
      else .next (deliver (.mapError address) s)

/-- `CLOSE`, and then `k`; `held` while any write is pending (40_register_window.md R150). -/
def closeThen (held k : State → State) (s : State) : Outcome :=
  if s.win.status ≠ .mapped then .next (k s)
  else if s.buses ≠ [] ∨ s.busyAgents ≠ [] then
    .next (raiseFault (.teardownOrder (s.buses.map LogicalBus.name) s.busyAgents) s)
  else if s.pend.i2c ≠ [] ∨ s.pend.ddc ≠ [] then .next (held s)
  else .next (k { s with win := { status := .closed, base := none } })

end Sys2Proof.Machine
end

