-- ==== Sys2Proof/Machine/ControlWords.lean ====
section
/-! DEFINITION. The control-word forms, each one `WR32` to a bus's offset (30_encoding.md R102 to R106, R109). -/

namespace Sys2Proof.Machine

/-- A legal control word, given by its fields (R102). -/
def execWr32Ctl (b : Bus) (clk dat : LineCtl) (s : State) : Outcome :=
  whenAtRest (writeThen (Config.off b) (ctlWord clk dat) id) s

/-- `SETCLK1` (R103). -/
def execSetClk1 (b : Bus) (s : State) : Outcome := whenAtRest (writeThen (Config.off b) (setWord .clk true) id) s

/-- `SETCLK0` (R103). -/
def execSetClk0 (b : Bus) (s : State) : Outcome := whenAtRest (writeThen (Config.off b) (setWord .clk false) id) s

/-- `SETDAT1` (R103). -/
def execSetDat1 (b : Bus) (s : State) : Outcome := whenAtRest (writeThen (Config.off b) (setWord .dat true) id) s

/-- `SETDAT0` (R103). -/
def execSetDat0 (b : Bus) (s : State) : Outcome := whenAtRest (writeThen (Config.off b) (setWord .dat false) id) s

/-- `RELCLK` (R104). -/
def execRelClk (b : Bus) (s : State) : Outcome := whenAtRest (writeThen (Config.off b) (relWord .clk) id) s

/-- `RELDAT` (R104). -/
def execRelDat (b : Bus) (s : State) : Outcome := whenAtRest (writeThen (Config.off b) (relWord .dat) id) s

/-- `LATCH` (R105). -/
def execLatch (b : Bus) (s : State) : Outcome := whenAtRest (writeThen (Config.off b) latchWord id) s

end Sys2Proof.Machine
end

