-- ==== Sys2Proof/Machine/Lifecycle.lean ====
section
/-! DEFINITION. ATTACH and DETACH (42_lifecycle.md R230 to R235). -/

namespace Sys2Proof.Machine

/-- The LogicalBus of a bus, with its exact name (10_state.md R49). -/
def logicalBus (b : Bus) : LogicalBus := { name := Config.busName b, bus := b }

/-- The primitive an attach stage runs (42_lifecycle.md R231); `none` after the idle initialisation. -/
def AttachStage.prim : AttachStage → Option (Prim × Bus)
  | .initI2cClk  => some (.setClock true, .i2c)
  | .initI2cDat  => some (.setData true, .i2c)
  | .initDdcClk  => some (.setClock true, .ddc)
  | .initDdcDat  => some (.setData true, .ddc)
  | .registerI2c => none
  | .registerDdc => none
  | .finish      => none

/-- The order of the stages (42_lifecycle.md R230 to R232); nothing comes after the return. -/
def AttachStage.next : AttachStage → AttachStage
  | .initI2cClk  => .initI2cDat
  | .initI2cDat  => .initDdcClk
  | .initDdcClk  => .initDdcDat
  | .initDdcDat  => .registerI2c
  | .registerI2c => .registerDdc
  | .registerDdc => .finish
  | .finish      => .finish

/-- `ATTACH phys`: its `OPEN`, and on success its agent goes on with the idle initialisation (R230). The `OPEN` it runs
leaves no result of its own in the observation, only the `ATTACH` does: 00_scope.md R18 does not say (DESIGN CHOICE,
assumption log 17). -/
def execAttach (phys : Nat) (s : State) : Outcome :=
  whenAtRest (openThen phys fun t => t.setTask (.attach .initI2cClk)) s

/-- An agent at `Idle` inside an `ATTACH` starts a primitive of the idle initialisation: from `Idle` to
`Busy(prim, b, 0, None)` (10_state.md R44), whether or not the bus is registered (41_line_driver.md R180). -/
def startInit (p : Prim) (b : Bus) (s : State) : Outcome := .next (s.setSeq (.busy p b 0 none))

/-- The steps of an `ATTACH` outside its primitives: their four starts, the two registrations, and the return (R230 to
R232). The returns of the primitives are in Machine/Sequencer.lean. -/
def attachStep (st : AttachStage) (s : State) : Outcome :=
  match st with
  | .initI2cClk  => startInit (.setClock true) .i2c s
  | .initI2cDat  => startInit (.setData true) .i2c s
  | .initDdcClk  => startInit (.setClock true) .ddc s
  | .initDdcDat  => startInit (.setData true) .ddc s
  | .registerI2c => .next ({ s with buses := [logicalBus .i2c] }.setTask (.attach .registerDdc))
  | .registerDdc => .next ({ s with buses := s.buses ++ [logicalBus .ddc] }.setTask (.attach .finish))
  | .finish      => .next ((deliver .ok { s with attached := true }).setTask .none)

/-- One step of a `DETACH` with these buses still to unregister: the next of them, or the `CLOSE` (R234). -/
def detachStep (remaining : List LogicalBus) (s : State) : Outcome :=
  match remaining with
  | x :: rest =>
    .next ({ s with buses := s.buses.filter fun y => y ≠ x }.setTask (.detach rest))
  | [] =>
    closeThen (fun t => t.setTask (.detach [])) (fun t => { t with attached := false }.setTask .none) s

/-- `DETACH`: its first step (R234). -/
def execDetach (s : State) : Outcome := whenAtRest (fun t => detachStep t.buses.reverse t) s

end Sys2Proof.Machine
end

