-- ==== Sys2Proof/Machine/Primitives.lean ====
section
/-! DEFINITION. Starting the line primitives (41_line_driver.md R180, R189 to R192). Their micro-steps are in
Machine/Sequencer.lean. -/

namespace Sys2Proof.Machine

/-- A caller starts a primitive: from `Idle` to `Busy(prim, b, 0, None)` (10_state.md R44), if the bus is registered
(41_line_driver.md R180). -/
def startPrim (p : Prim) (b : Bus) (s : State) : Outcome :=
  whenAtRest (fun t =>
    if t.registered b then .next (t.setSeq (.busy p b 0 none)) else .next (raiseFault (.noBus b p) t)) s

def execPrimSetClk1 (b : Bus) (s : State) : Outcome := startPrim (.setClock true) b s

def execPrimSetClk0 (b : Bus) (s : State) : Outcome := startPrim (.setClock false) b s

def execPrimSetDat1 (b : Bus) (s : State) : Outcome := startPrim (.setData true) b s

def execPrimSetDat0 (b : Bus) (s : State) : Outcome := startPrim (.setData false) b s

def execPrimGetClk (b : Bus) (s : State) : Outcome := startPrim .getClock b s

def execPrimGetDat (b : Bus) (s : State) : Outcome := startPrim .getData b s

end Sys2Proof.Machine
end

