-- ==== Sys2Proof/Machine/WindowOps.lean ====
section
/-! DEFINITION. The register-window operations OPEN, WR32, RD32, FLUSH and CLOSE (40_register_window.md R140 to R150). -/

namespace Sys2Proof.Machine

/-- `WR32 off, word` (R143). -/
def execWr32 (off : Nat) (word : Word) (s : State) : Outcome := whenAtRest (writeThen off word id) s

/-- `RD32 off` (R147); a caller that holds waits in it. -/
def execRd32 (off : Nat) (s : State) : Outcome :=
  whenAtRest (readThen off (fun t => t.setTask (.waiting (.read off))) fun v t => deliver (.word v) t) s

/-- `FLUSH off` (R149): the result is discarded. -/
def execFlush (off : Nat) (s : State) : Outcome :=
  whenAtRest (readThen off (fun t => t.setTask (.waiting (.flush off))) fun _ t => t) s

/-- `OPEN phys` (R140). -/
def execOpenWin (phys : Nat) (s : State) : Outcome := whenAtRest (openThen phys (deliver .ok)) s

/-- `CLOSE` (R150). -/
def execClose (s : State) : Outcome := whenAtRest (closeThen (fun t => t.setTask (.waiting .close)) id) s

/-- A held operation tries again: its checks come again before the hold (R147, R150). -/
def retryHeld (op : HeldOp) (s : State) : Outcome :=
  match op with
  | .read off  => readThen off id (fun v t => (deliver (.word v) t).setTask .none) s
  | .flush off => readThen off id (fun _ t => t.setTask .none) s
  | .close     => closeThen id (fun t => t.setTask .none) s

end Sys2Proof.Machine
end

