-- ==== Sys2Proof/Machine/Sequencer.lean ====
section
/-! DEFINITION. The micro-steps of an agent that is engaged (10_state.md R44; 41_line_driver.md R189 to R192). -/

namespace Sys2Proof.Machine

/-- The return of a primitive: the agent is `Idle` again and has its result (10_state.md R44); an `ATTACH` whose
primitive it was stands at its next stage (42_lifecycle.md R230). -/
def returnPrim (p : Prim) (r : Option Word) (s : State) : Outcome :=
  match s.me.task, resultLine p, r with
  | .attach st, none,   _      => .next (s.setMe { s.me with seq := .idle, task := .attach st.next })
  | .none,      none,   _      => .next (s.setSeq .idle)
  | .none,      some l, some w => .next (deliver (.level (inputBit l w)) (s.setSeq .idle))
  | _,          _,      _      => .fault .badSequencerState

/-- Micro-step `k` of a primitive (41_line_driver.md R189 to R192): a write or a read of the bus's own offset moves the
index on by one, a read that holds leaves it, and the step after the last access returns. -/
def primStep (p : Prim) (b : Bus) (k : Nat) (r : Option Word) (s : State) : Outcome :=
  match (microOps p)[k]? with
  | some (.write w) => writeThen (Config.off b) w (fun t => t.setSeq (.busy p b (k + 1) r)) s
  | some .read      => readThen (Config.off b) id (fun v t => t.setSeq (.busy p b (k + 1) (some v))) s
  | none            => if k = (microOps p).length then returnPrim p r s else .fault .badSequencerState

/-- The acting agent's next micro-step. An agent at rest or stopped has none (60_exceptions.md R256). -/
def microStep (s : State) : Outcome :=
  if s.me.stopped then .next s
  else
    match s.me.seq, s.me.task with
    | .busy p b k r, _           => primStep p b k r s
    | .idle,         .none       => .next s
    | .idle,         .waiting op => retryHeld op s
    | .idle,         .attach st  => attachStep st s
    | .idle,         .detach rem => detachStep rem s

end Sys2Proof.Machine
end

