-- ==== Sys2Proof/Machine/Dispatch.lean ====
section
/-! DEFINITION. One arm for each constructor of Instr. -/

namespace Sys2Proof.Machine

def exec (i : Instr) (s : State) : Host.Outcome State Fault Refusal :=
  match i with
  -- 40_register_window.md
  | .wr32 off word => Sys2Proof.Machine.execWr32 off word s
  | .wr32Ctl b clk dat => Sys2Proof.Machine.execWr32Ctl b clk dat s
  | .rd32 off => Sys2Proof.Machine.execRd32 off s
  | .flush off => Sys2Proof.Machine.execFlush off s
  -- 30_encoding.md R106
  | .setClk1 b => Sys2Proof.Machine.execSetClk1 b s
  | .setClk0 b => Sys2Proof.Machine.execSetClk0 b s
  | .setDat1 b => Sys2Proof.Machine.execSetDat1 b s
  | .setDat0 b => Sys2Proof.Machine.execSetDat0 b s
  | .relClk b => Sys2Proof.Machine.execRelClk b s
  | .relDat b => Sys2Proof.Machine.execRelDat b s
  | .latch b => Sys2Proof.Machine.execLatch b s
  -- 41_line_driver.md
  | .primSetClk1 b => Sys2Proof.Machine.execPrimSetClk1 b s
  | .primSetClk0 b => Sys2Proof.Machine.execPrimSetClk0 b s
  | .primSetDat1 b => Sys2Proof.Machine.execPrimSetDat1 b s
  | .primSetDat0 b => Sys2Proof.Machine.execPrimSetDat0 b s
  | .primGetClk b => Sys2Proof.Machine.execPrimGetClk b s
  | .primGetDat b => Sys2Proof.Machine.execPrimGetDat b s
  -- 40_register_window.md and 42_lifecycle.md
  | .openWin phys => Sys2Proof.Machine.execOpenWin phys s
  | .close => Sys2Proof.Machine.execClose s
  | .attach phys => Sys2Proof.Machine.execAttach phys s
  | .detach => Sys2Proof.Machine.execDetach s

end Sys2Proof.Machine
end

