-- ==== Sys2Proof/Machine/Environment.lean ====
section
/-! DEFINITION. The steps of the posting path and of the environment (20_memory.md R79; 41_line_driver.md R184 to R186).
A step that is not enabled changes nothing. -/

namespace Sys2Proof.Machine

/-- The posting path of a bus's offset performs the head of its queue (20_memory.md R79). -/
def postStep (b : Bus) (s : State) : State :=
  match s.pend.get b with
  | []        => s
  | w :: rest => performWrite b w { s with pend := s.pend.set b rest, trace := .perform (Config.off b) w :: s.trace }

/-- A peer pulls a line or lets it go (41_line_driver.md R184). -/
def peerStep (b : Bus) (l : Line) (low : Bool) (s : State) : State :=
  lineUpdate { s with peerLow := s.peerLow.set b l low }

/-- Is the settle step of a line enabled (41_line_driver.md R185)? -/
def settleEnabled (b : Bus) (l : Line) (s : State) : Bool :=
  s.drive b l == .released && !s.peerLow.get b l && !s.settled.get b l

/-- A released line finishes rising (41_line_driver.md R185). -/
def settleStep (b : Bus) (l : Line) (s : State) : State :=
  { s with settled := s.settled.set b l (settleEnabled b l s || s.settled.get b l) }

/-- A spontaneous sample, for a value of `SPONTANEOUS_SAMPLE` (41_line_driver.md R186). -/
def sampleStepWith (spontaneous : Bool) (b : Bus) (l : Line) (s : State) : State :=
  { s with
    inl   := s.inl.set b l (if spontaneous then some (s.sample b l (Config.freeDraw s.draws)) else s.inl.get b l)
    draws := s.draws + 1 }

def sampleStep (b : Bus) (l : Line) (s : State) : State := sampleStepWith Config.spontaneousSample b l s

end Sys2Proof.Machine
end

