-- ==== Sys2Proof/Machine/Events.lean ====
section
/-! DEFINITION. What one scheduled event does (00_scope.md R17). -/

namespace Sys2Proof.Machine

/-- The acting agent's request. An access of a width other than 32 bits is refused (20_memory.md R72); a 32-bit access
is decoded and run; a call is run. A word that encodes no access stops the machine, but only from an agent at rest: an
agent that is engaged or stopped has no such step (60_exceptions.md R256), whatever its word (DESIGN CHOICE, assumption
log 1). -/
def runRequest (r : Request) (s : State) : Outcome :=
  match r with
  | .acc width w =>
    if width ≠ Config.wordBits then whenAtRest (fun t => .next (refuseOp .width t)) s
    else
      match decode w with
      | .ok i    => exec i s
      | .error e => whenAtRest (fun _ => .refused (.undecodable e)) s
  | .call i => exec i s

/-- One event. -/
def runEvent (e : Event) (s : State) : Outcome :=
  match e with
  | .request a r  => runRequest r { s with actor := a }
  | .micro a      => microStep { s with actor := a }
  | .post b       => .next (postStep b s)
  | .peer b l low => .next (peerStep b l low s)
  | .settle b l   => .next (settleStep b l s)
  | .sample b l   => .next (sampleStep b l s)

/-- A caller number that no listed agent has, so that agent is at rest. -/
def freshCaller : List (AgentId × AgentRec) → Nat
  | []          => 0
  | (a, _) :: l => max (agentKey a) (freshCaller l)

end Sys2Proof.Machine
end

