-- ==== Sys2Proof/Machine/Step.lean ====
section
/-! DEFINITION. One step of the machine: the next step of an `ATTACH` that stands outside its primitives, or else the next
scheduled event. With neither, nothing runs (70_reset_and_hazards.md R291). -/

namespace Sys2Proof.Machine

/-- An `ATTACH` outside its primitives goes on before anything that is scheduled (assumption log 29); the schedule then
waits. -/
def step (s : State) : Host.Outcome State Fault Refusal :=
  match s.attachTurn, s.schedule with
  | some a, _         => runEvent (.micro a) s
  | none,   []        => .next s
  | none,   e :: rest => runEvent e { s with schedule := rest }

/-- The block fetches no instruction (20_memory.md R83): the next step runs the access that a caller at rest requests.
So the access is put at the head of the schedule, and an `ATTACH` that would have the turn is dropped. -/
def State.withFetchWord (s : State) (nbits w : Nat) : State :=
  { s with
    agents   := s.yieldTurns
    schedule := .request (.caller (freshCaller s.agents)) (.acc Config.wordBits (BitVec.ofNat 48 (w % 2 ^ nbits))) :: s.schedule }

end Sys2Proof.Machine
end

