-- ==== Sys2Proof/Safety.lean ====
section
/-! DEFINITION. The terms claims use: runs over a list of events, the invariant of the machine, what a posted-write
history is, and fairness (70_reset_and_hazards.md R303). -/

namespace Sys2Proof.Machine

/-! ### Runs -/

/-- The events of a list, one after the other, stopping at the first that does not answer a next state. The schedule
State keeps is neither read nor changed, and no `ATTACH` takes a turn: every run of the machine is such a run, so a claim
about all of these covers it. -/
def runAll : List Event → State → Outcome
  | [], s => .next s
  | e :: es, s =>
    match runEvent e s with
    | .next t    => runAll es t
    | .fault r   => .fault r
    | .refused r => .refused r

/-- No fault recorded and nothing refused: the premise claims take (60_exceptions.md R252, R257). -/
def State.clean (s : State) : Prop := s.faults = [] ∧ s.refused = false

/-! ### The invariant -/

/-- The window has a base exactly when it is mapped, and the base is a page inside the address space
(10_state.md R40, 40_register_window.md R141). -/
def windowWf (w : Window) : Prop :=
  match w.status, w.base with
  | .mapped,   some a => a % Config.pageSize = 0 ∧ a + Config.windowLen ≤ 2 ^ Config.physAddrWidth
  | .mapped,   none   => False
  | .unopened, base   => base = none
  | .closed,   base   => base = none

/-- The micro-step index fits the primitive, and a word has been read exactly when only the return is left
(10_state.md R43, R44). -/
def seqWf (p : Prim) (k : Nat) (r : Option Word) : Prop :=
  k ≤ (microOps p).length ∧ (r.isSome = true ↔ k = (microOps p).length)

/-- An agent is in a primitive of its own, in the primitive of its `ATTACH` stage, or in none. -/
def agentWf (r : AgentRec) : Prop :=
  match r.seq, r.task with
  | .busy p _ k v, .none      => seqWf p k v
  | .busy p b k v, .attach st => AttachStage.prim st = some (p, b) ∧ seqWf p k v
  | .busy _ _ _ _, .waiting _ => False
  | .busy _ _ _ _, .detach _  => False
  | .idle,         .attach _  => True
  | .idle,         .none      => True
  | .idle,         .waiting _ => True
  | .idle,         .detach _  => True

/-- The invariant every step keeps. -/
structure State.Inv (s : State) : Prop where
  /-- The agents are listed in canonical form. -/
  agentList : agentsWf s.agents = true
  /-- Every agent's record makes sense. -/
  agentRecs : ∀ a, agentWf (s.agent a)
  /-- The window makes sense. -/
  window : windowWf s.win
  /-- Only legal control words are ever queued (30_encoding.md R107). -/
  legalWords : ∀ b, ∀ w ∈ s.pend.get b, bitSet w Config.reservedMask = false
  /-- Nothing is pending while no window is mapped (40_register_window.md R143, R150). -/
  drained : s.win.status ≠ .mapped → ∀ b, s.pend.get b = []
  /-- The settle bits agree with the drives and the peers (41_line_driver.md R183). -/
  lines : ∀ b l, s.settled.get b l = settledOf (s.drive b l) (s.peerLow.get b l) (s.settled.get b l)
  /-- A registered bus has its exact name (10_state.md R49). -/
  names : ∀ x ∈ s.buses, x.name = Config.busName x.bus
  /-- `faults` is a set (10_state.md R46). -/
  faultSet : s.faults.Nodup
  /-- An agent with a recorded fault has stopped (60_exceptions.md R256). -/
  faultStops : ∀ f ∈ s.faults, (s.agent f.agent).stopped = true

/-- An `ATTACH` goes on only under a mapped window (42_lifecycle.md R230). Every step of the machine keeps this beside the
invariant; an event alone need not, because the turn of an `ATTACH` is the step's (assumption log 29). -/
def State.AttachWindow (s : State) : Prop :=
  ∀ a st, (s.agent a).task = .attach st → (s.agent a).stopped = false → s.win.status = .mapped

/-! ### Posted writes -/

/-- The words a trace issued to a bus's offset, oldest first. -/
def issuedWords (b : Bus) (trace : List Obs) : List Word :=
  trace.reverse.filterMap fun o =>
    match o with
    | .write _ off w => if off = Config.off b then some w else none
    | .perform _ _ | .read _ _ _ | .returned _ _ | .refused _ _ => none

/-- The words a trace performed at a bus's offset, oldest first. -/
def performedWords (b : Bus) (trace : List Obs) : List Word :=
  trace.reverse.filterMap fun o =>
    match o with
    | .perform off w => if off = Config.off b then some w else none
    | .write _ _ _ | .read _ _ _ | .returned _ _ | .refused _ _ => none

/-- Does a word set an enable bit of the line? -/
def touches (l : Line) (w : Word) : Bool := (lineFields w l).dirEnable || (lineFields w l).valEnable

/-- `base(l)`: the bit at which a line's fields start (00_scope.md R12). -/
def lineBase : Line → Nat
  | .clk => 0
  | .dat => 8

/-- `v` is a sample of level `lv` (41_line_driver.md R187), a draw numbered from `lo` and below `hi` at level X. -/
def IsSample (lv : Level) (lo hi : Nat) (v : Bool) : Prop :=
  (lv = .zero → v = false) ∧ (lv = .one → v = true) ∧
  (lv = .x → ∃ n, lo ≤ n ∧ n < hi ∧ v = Config.freeDraw n)

/-! ### Primitives by line -/

def setPrim (l : Line) (v : Bool) : Prim :=
  match l with
  | .clk => .setClock v
  | .dat => .setData v

def getPrim : Line → Prim
  | .clk => .getClock
  | .dat => .getData

/-- The operation that starts `SET_*` of a line. -/
def setInstr (l : Line) (v : Bool) (b : Bus) : Instr :=
  match l, v with
  | .clk, true  => .primSetClk1 b
  | .clk, false => .primSetClk0 b
  | .dat, true  => .primSetDat1 b
  | .dat, false => .primSetDat0 b

/-- The operation that starts `GET_*` of a line. -/
def getInstr (l : Line) (b : Bus) : Instr :=
  match l with
  | .clk => .primGetClk b
  | .dat => .primGetDat b

/-! ### Fair runs (70_reset_and_hazards.md R303) -/

/-- An infinite run: a state and an event for each instant. -/
def IsRun (states : Nat → State) (events : Nat → Event) : Prop :=
  ∀ n, runEvent (events n) (states n) = .next (states (n + 1))

/-- An agent's micro-step is enabled when it is not held and there is one: it changes something. -/
def microEnabled (a : AgentId) (s : State) : Prop := runEvent (.micro a) s ≠ .next { s with actor := a }

/-- Weak fairness of the event `e`, enabled in the states of `enabled`. -/
def WeaklyFair (states : Nat → State) (events : Nat → Event) (enabled : State → Prop) (e : Event) : Prop :=
  ∀ n, (∀ m, n ≤ m → enabled (states m)) → ∃ m, n ≤ m ∧ events m = e

/-- The steps R303 calls weakly fair: posting, settling, and the steps of an agent that is engaged. -/
def FairRun (states : Nat → State) (events : Nat → Event) : Prop :=
  IsRun states events ∧
  (∀ b, WeaklyFair states events (fun s => s.pend.get b ≠ []) (.post b)) ∧
  (∀ b l, WeaklyFair states events (fun s => settleEnabled b l s = true) (.settle b l)) ∧
  (∀ a, WeaklyFair states events (microEnabled a) (.micro a))

end Sys2Proof.Machine
end

