-- ==== Sys2Proof/Certificates/Slice0/Obligations.lean ====
section
/-! DEFINITION. The statements for the provers. -/

open Sys2Proof Sys2Proof.Machine

/-! ### Encoding -/

/-- Words written out from 30_encoding.md R100 and R106: bit 44 the kind, bits 43:32 the offset, bits 31:0 the value.
That a read with a value, the last word, decodes to nothing is the model's reading (assumption log 13). -/
def Obligations.WrittenOutWordsDecode : Prop :=
  decodeTableWord 48 0x10100000000F = some (.setClk1 .i2c) ∧
  decodeTableWord 48 0x101400000007 = some (.setClk0 .ddc) ∧
  decodeTableWord 48 0x101400000F00 = some (.setDat1 .ddc) ∧
  decodeTableWord 48 0x101000000700 = some (.setDat0 .i2c) ∧
  decodeTableWord 48 0x101000000001 = some (.relClk .i2c) ∧
  decodeTableWord 48 0x101400000100 = some (.relDat .ddc) ∧
  decodeTableWord 48 0x101000000000 = some (.latch .i2c) ∧
  decodeTableWord 48 0x101400000A05 =
    some (.wr32Ctl .ddc ⟨true, false, true, false⟩ ⟨false, true, false, true⟩) ∧
  decodeTableWord 48 0x101000000010 = some (.wr32 0x10 0x10) ∧
  decodeTableWord 48 0x101200000000 = some (.wr32 0x12 0) ∧
  decodeTableWord 48 0x001400000000 = some (.rd32 0x14) ∧
  decodeTableWord 48 0x001400000001 = none

/-- Each word an operation expands to decodes to that access, under the name 30_encoding.md R109 lets a decoder give it
(R100, R106, R112): no bit of an encoding is dropped. -/
def Obligations.EncodedWordsDecodeToExpansion : Prop :=
  ∀ i : Instr, i.encodable = true → (encode i).map decode = (expansion i).map fun j => .ok (canonical j)

/-- Every word that decodes has one meaning: the decoded access encodes to that word alone. -/
def Obligations.DecodedAccessEncodesBack : Prop :=
  ∀ (w : AccWord) (i : Instr), decode w = .ok i → encode i = [w] ∧ canonical i = i ∧ i.encodable = true

/-- A word is rejected exactly when it has a bit beyond the 45 of the packing, or is a read with a value. -/
def Obligations.RejectedWordsCharacterised : Prop :=
  ∀ w : AccWord,
    (∃ r, decode w = .error r) ↔
      (2 ^ 45 ≤ w.toNat ∨ (w.getLsbD 44 = false ∧ w.extractLsb' 0 32 ≠ 0))

/-- The word a `SET_*` writes is the constant of 30_encoding.md R103: the four masks of its line, which are three or
four ones shifted to the line's place. It does not depend on the bus. -/
def Obligations.SetWordIsConstantOfLineAndValue : Prop :=
  (∀ l v, setWord l v = (Config.masks l).dm ||| (Config.masks l).d ||| (Config.masks l).vm |||
    (if v then (Config.masks l).v else 0)) ∧
  (∀ l v, setWord l v = (0b0111#32 ||| (if v then 0b1000#32 else 0#32)) <<< lineBase l) ∧
  (∀ l v, microOps (setPrim l v) = [.write (setWord l v), .read]) ∧
  setWord .clk true = 0x0000000F ∧ setWord .clk false = 0x00000007 ∧
  setWord .dat true = 0x00000F00 ∧ setWord .dat false = 0x00000700

/-- Both readings of a write have the same semantics (30_encoding.md R109): the name the decoder gives, and the generic
`WR32`; and a `CTL` form is the `WR32` of its word. -/
def Obligations.NamedWritesRunAsGenericWrites : Prop :=
  (∀ off w s, exec (nameWrite off w) s = exec (.wr32 off w) s) ∧
  (∀ b clk dat s, exec (.wr32Ctl b clk dat) s = exec (.wr32 (Config.off b) (ctlWord clk dat)) s)

/-! ### Reset, steps and the schedule -/

/-- 70_reset_and_hazards.md R290. `peer_low` is a draw: a constant with no body (assumption log 5). -/
def Obligations.ResetStateAsSpecified : Prop :=
  State.reset.win = { status := .unopened, base := none } ∧
  (∀ b l, State.reset.dir.get b l = none ∧ State.reset.out.get b l = none ∧ State.reset.inl.get b l = none ∧
    State.reset.settled.get b l = false ∧ State.reset.drive b l = .unknown ∧ State.reset.level b l = .x) ∧
  (∀ b l, State.reset.peerLow.get b l = Config.resetPeerLow b l) ∧ (∀ b, State.reset.pend.get b = []) ∧
  (∀ a, (State.reset.agent a).seq = .idle) ∧
  State.reset.buses = [] ∧ State.reset.attached = false ∧ State.reset.faults = [] ∧ State.reset.refused = false

/-- A step is the next scheduled event; a request whose 32-bit access decodes to `i`, or that calls `i`, is exec of `i`
by the requesting agent. Only an `ATTACH` outside its primitives goes before it. That the schedule says who moves, and
the turn of an `ATTACH`, are the model's choice (assumption logs 1 and 29). -/
def Obligations.StepRunsDecodedInstruction : Prop :=
  ∀ (s : State) (a : AgentId) (rest : List Event) (i : Instr),
    (s.attachTurn = none →
      (∀ w : AccWord, s.schedule = .request a (.acc 32 w) :: rest → decode w = .ok i →
        step s = exec i { s with schedule := rest, actor := a }) ∧
      (s.schedule = .request a (.call i) :: rest → step s = exec i { s with schedule := rest, actor := a }) ∧
      (s.schedule = [] → step s = .next s)) ∧
    (s.attachTurn = some a → step s = runEvent (.micro a) s)

/-- Every run of the machine is a run of events, which takes scheduled events off the front; and where no `ATTACH` has the
turn on the way, the machine run for as many steps as events are scheduled is the run of exactly those events. The
schedule in State and the turn of an `ATTACH` are the model's choice (assumption logs 1 and 29). -/
def Obligations.ScheduledRunIsEventRun : Prop :=
  (∀ (n : Nat) (s t : State), Host.Core.run Sys2Proof.core n s = .next t →
    ∃ es, runAll es { s with schedule := [] } = .next { t with schedule := [] } ∧
      ∃ taken, s.schedule = taken ++ t.schedule ∧ taken.Sublist es) ∧
  ∀ (es : List Event) (s t : State), s.schedule = [] →
    (∀ k u, k < es.length → runAll (es.take k) s = .next u → u.attachTurn = none) →
    (Host.Core.run Sys2Proof.core es.length { s with schedule := es } = .next t ↔ runAll es s = .next t)

/-- The word `withFetchWord` places is the next thing that runs, whatever the state. The choice of a caller at rest is
the model's (assumption log 20), and so is that an `ATTACH` with the turn is dropped; where none has it, no agent is
touched. -/
def Obligations.PlacedWordRunsNext : Prop :=
  ∀ (s : State) (w : Nat) (i : Instr), decodeTableWord 48 w = some i →
    ∃ a, s.agent a = .atRest ∧
      step (s.withFetchWord 48 w) = exec i { s with agents := s.yieldTurns, actor := a } ∧
      (s.attachTurn = none → s.yieldTurns = s.agents)

/-! ### Control words: performing, capturing, reading -/

/-- `PerformWrite` (40_register_window.md R144), bit by bit: a field changes only when its enable bit is set; the other
bus's word is untouched; every line's settle bit follows from the new drives (41_line_driver.md R183); nothing else
changes but the input latches of the bus and the count of draws. -/
def Obligations.PerformWriteUpdatesEnabledFields : Prop :=
  ∀ (s : State) (b : Bus) (w : Word) (l : Line),
    let t := performWrite b w s
    (t.dir.get b l = if w.getLsbD (lineBase l) then some (if w.getLsbD (lineBase l + 1) then .output else .input)
      else s.dir.get b l) ∧
    (t.out.get b l = if w.getLsbD (lineBase l + 2) then some (w.getLsbD (lineBase l + 3)) else s.out.get b l) ∧
    (∀ b', b' ≠ b → t.dir.get b' l = s.dir.get b' l ∧ t.out.get b' l = s.out.get b' l ∧
      t.inl.get b' l = s.inl.get b' l) ∧
    (∀ b', t.settled.get b' l = settledOf (t.drive b' l) (s.peerLow.get b' l) (s.settled.get b' l)) ∧
    t.win = s.win ∧ t.pend = s.pend ∧ t.peerLow = s.peerLow ∧ t.agents = s.agents ∧ t.buses = s.buses ∧
    t.attached = s.attached ∧ t.faults = s.faults ∧ t.refused = s.refused ∧ t.schedule = s.schedule ∧
    t.actor = s.actor ∧ t.trace = s.trace

/-- `Capture` (40_register_window.md R145), for both values of `SIBLING_GLITCH`: the zero write captures both lines of
its word, a driven one as a draw when the glitch is there; a non-zero write captures a line or leaves its latch, as a
draw says; the drives and levels are those after the field update and the line update. -/
def Obligations.CaptureAtPerformance : Prop :=
  ∀ (glitch : Bool) (s : State) (b : Bus) (l : Line) (w : Word),
    let t := performWith glitch b w s
    (w = 0 → ¬(glitch = true ∧ (t.drive b l = .low ∨ t.drive b l = .high)) →
      ∃ v, t.inl.get b l = some v ∧ IsSample (t.level b l) s.draws t.draws v) ∧
    (w = 0 → glitch = true → t.drive b l = .low ∨ t.drive b l = .high →
      ∃ n, s.draws ≤ n ∧ n < t.draws ∧ t.inl.get b l = some (Config.freeDraw n)) ∧
    (w ≠ 0 → ∃ n v, s.draws ≤ n ∧ n < t.draws ∧ IsSample (t.level b l) s.draws t.draws v ∧
      t.inl.get b l = if Config.freeDraw n then some v else s.inl.get b l) ∧
    (∀ b', b' ≠ b → t.inl.get b' l = s.inl.get b' l) ∧
    t.dir = (updateFields b w s).dir ∧ t.out = (updateFields b w s).out ∧
    t.settled = (lineUpdate (updateFields b w s)).settled

/-- Writing the same word twice leaves the fields and the drives as writing it once (20_memory.md R74). -/
def Obligations.RepeatedWriteLeavesFields : Prop :=
  ∀ (s : State) (b : Bus) (w : Word),
    (performWrite b w (performWrite b w s)).dir = (performWrite b w s).dir ∧
    (performWrite b w (performWrite b w s)).out = (performWrite b w s).out ∧
    ∀ b' l, (performWrite b w (performWrite b w s)).drive b' l = (performWrite b w s).drive b' l

/-- `ReadValue` (40_register_window.md R148): bits 4 and 12 are the input latches, or draws where nothing was captured;
every other bit is the bit of a fresh free word. Which draw each bit takes is the model's choice (assumption log 3). -/
def Obligations.ReadValueShowsInputLatches : Prop :=
  ∀ (s : State) (b : Bus),
    (∀ v, s.inl.get b .clk = some v → (readValue b s).getLsbD 4 = v) ∧
    (∀ v, s.inl.get b .dat = some v → (readValue b s).getLsbD 12 = v) ∧
    (s.inl.get b .clk = none → (readValue b s).getLsbD 4 = Config.freeDraw s.draws) ∧
    (s.inl.get b .dat = none → (readValue b s).getLsbD 12 = Config.freeDraw (s.draws + 1)) ∧
    (∀ i, i ≠ 4 → i ≠ 12 → (readValue b s).getLsbD i = (Config.freeWord s.draws).getLsbD i)

/-! ### Lines -/

/-- Drive and level, row by row (41_line_driver.md R181, R182). -/
def Obligations.DriveAndLevelTables : Prop :=
  ∀ (s : State) (b : Bus) (l : Line),
    (s.dir.get b l = none → s.drive b l = .unknown) ∧
    (s.dir.get b l = some .input → s.drive b l = .released) ∧
    (s.dir.get b l = some .output → s.out.get b l = none → s.drive b l = .unknown) ∧
    (s.dir.get b l = some .output → s.out.get b l = some false → s.drive b l = .low) ∧
    (s.dir.get b l = some .output → s.out.get b l = some true → s.drive b l = .high) ∧
    (s.drive b l = .low → s.level b l = .zero) ∧
    (s.drive b l = .unknown → s.level b l = .x) ∧
    (s.drive b l = .high → s.level b l = if s.peerLow.get b l then .x else .one) ∧
    (s.drive b l = .released →
      s.level b l = if s.peerLow.get b l then .zero else if s.settled.get b l then .one else .x)

/-- `LineUpdate` (41_line_driver.md R183) and its frame; it runs after every performance, over the new latches, and after
every peer step, over the new peer. -/
def Obligations.LineUpdateSettlesLines : Prop :=
  ∀ (s : State) (b : Bus) (l : Line),
    (s.drive b l = .high → s.peerLow.get b l = false → (lineUpdate s).settled.get b l = true) ∧
    (s.drive b l = .released → s.peerLow.get b l = false → (lineUpdate s).settled.get b l = s.settled.get b l) ∧
    (¬((s.drive b l = .high ∨ s.drive b l = .released) ∧ s.peerLow.get b l = false) →
      (lineUpdate s).settled.get b l = false) ∧
    lineUpdate s = { s with settled := (lineUpdate s).settled } ∧
    (∀ b' w, (performWrite b' w s).settled =
      (lineUpdate { s with dir := (performWrite b' w s).dir, out := (performWrite b' w s).out }).settled) ∧
    (∀ b' l' low, peerStep b' l' low s = lineUpdate { s with peerLow := s.peerLow.set b' l' low })

/-- The environment's steps (41_line_driver.md R184, R185, R186) and their frames, the sample for both values of
`SPONTANEOUS_SAMPLE`. A settle step that is not enabled, and a sample where the latch does not sample by itself, leave
the latches as they are (assumption log 1). -/
def Obligations.EnvironmentStepsAsSpecified : Prop :=
  ∀ (s : State) (b : Bus) (l : Line),
    (∀ low, ∃ t, runEvent (.peer b l low) s = .next t ∧ t.peerLow.get b l = low ∧
      (∀ b' l', ¬(b' = b ∧ l' = l) → t.peerLow.get b' l' = s.peerLow.get b' l') ∧
      (∀ b' l', t.settled.get b' l' = settledOf (s.drive b' l') (t.peerLow.get b' l') (s.settled.get b' l')) ∧
      t = { s with peerLow := t.peerLow, settled := t.settled }) ∧
    (∃ t, runEvent (.settle b l) s = .next t ∧
      (s.drive b l = .released → s.peerLow.get b l = false → t.settled.get b l = true) ∧
      (¬(s.drive b l = .released ∧ s.peerLow.get b l = false) → t = s) ∧
      (∀ b' l', ¬(b' = b ∧ l' = l) → t.settled.get b' l' = s.settled.get b' l') ∧
      t = { s with settled := t.settled }) ∧
    runEvent (.sample b l) s = .next (sampleStepWith Config.spontaneousSample b l s) ∧
    ∀ spontaneous, ∃ t, sampleStepWith spontaneous b l s = t ∧
      (spontaneous = true → ∃ v, t.inl.get b l = some v ∧ IsSample (s.level b l) s.draws t.draws v) ∧
      (spontaneous = false → t.inl = s.inl) ∧
      (∀ b' l', ¬(b' = b ∧ l' = l) → t.inl.get b' l' = s.inl.get b' l') ∧
      t = { s with inl := t.inl, draws := t.draws }

/-! ### Accesses -/

/-- `WR32` of a legal word to a control word (40_register_window.md R143) queues it behind the pending ones, and no field
changes. -/
def Obligations.Wr32QueuesLegalWord : Prop :=
  ∀ (s : State) (b : Bus) (w : Word), s.agent s.actor = .atRest → s.win.status = .mapped →
    w &&& 0xFFFFF0F0 = 0 →
    exec (.wr32 (Config.off b) w) s = .next
      { s with pend := s.pend.set b (s.pend.get b ++ [w]), trace := .write s.actor (Config.off b) w :: s.trace }

/-- The control-word forms queue the words of 30_encoding.md R102 and R106 at `0x10` (I2C) or `0x14` (DDC), and no field
changes. -/
def Obligations.ControlWordFormsQueueTheirWords : Prop :=
  ∀ (s : State) (b : Bus), s.agent s.actor = .atRest → s.win.status = .mapped →
    let off := match b with | .i2c => 0x10 | .ddc => 0x14
    let queued := fun w : Word => Host.Outcome.next (φ := Machine.Fault) (ρ := Machine.Refusal)
      { s with pend := s.pend.set b (s.pend.get b ++ [w]), trace := Obs.write s.actor off w :: s.trace }
    exec (.setClk1 b) s = queued 0x0000000F ∧ exec (.setClk0 b) s = queued 0x00000007 ∧
    exec (.setDat1 b) s = queued 0x00000F00 ∧ exec (.setDat0 b) s = queued 0x00000700 ∧
    exec (.relClk b) s = queued 0x00000001 ∧ exec (.relDat b) s = queued 0x00000100 ∧
    exec (.latch b) s = queued 0x00000000 ∧
    ∀ clk dat : LineCtl, ∃ w, exec (.wr32Ctl b clk dat) s = queued w ∧
      w.getLsbD 0 = clk.dirEnable ∧ w.getLsbD 1 = clk.dirOut ∧ w.getLsbD 2 = clk.valEnable ∧
      w.getLsbD 3 = clk.valHigh ∧ w.getLsbD 8 = dat.dirEnable ∧ w.getLsbD 9 = dat.dirOut ∧
      w.getLsbD 10 = dat.valEnable ∧ w.getLsbD 11 = dat.valHigh ∧ w &&& 0xFFFFF0F0 = 0

/-- The checks of an access in their order (60_exceptions.md R255), for `WR32`, `RD32` and `FLUSH`. -/
def Obligations.AccessChecksInOrder : Prop :=
  ∀ (s : State) (off : Nat) (w : Word), s.agent s.actor = .atRest →
    (s.win.status ≠ .mapped →
      exec (.wr32 off w) s = .next (raiseFault (.noWindow off (some w)) s) ∧
      exec (.rd32 off) s = .next (raiseFault (.noWindow off none) s) ∧
      exec (.flush off) s = .next (raiseFault (.noWindow off none) s)) ∧
    (s.win.status = .mapped → off % 4 ≠ 0 →
      exec (.wr32 off w) s = .next (raiseFault (.misaligned off) s) ∧
      exec (.rd32 off) s = .next (raiseFault (.misaligned off) s) ∧
      exec (.flush off) s = .next (raiseFault (.misaligned off) s)) ∧
    (s.win.status = .mapped → off % 4 = 0 → off + 4 > 0x1000 →
      exec (.wr32 off w) s = .next (raiseFault (.badOffset off) s) ∧
      exec (.rd32 off) s = .next (raiseFault (.badOffset off) s) ∧
      exec (.flush off) s = .next (raiseFault (.badOffset off) s)) ∧
    (s.win.status = .mapped → off % 4 = 0 → off + 4 ≤ 0x1000 → off ≠ 0x10 → off ≠ 0x14 →
      exec (.wr32 off w) s = .next (refuseOp .unmodelledOffset s) ∧
      exec (.rd32 off) s = .next (refuseOp .unmodelledOffset s) ∧
      exec (.flush off) s = .next (refuseOp .unmodelledOffset s)) ∧
    (s.win.status = .mapped → off = 0x10 ∨ off = 0x14 → w &&& 0xFFFFF0F0 ≠ 0 →
      exec (.wr32 off w) s = .next (refuseOp .reservedBits s))

/-- An access of another width is refused (20_memory.md R72), whatever its word. That this comes before every other check
is the model's reading (assumption log 15): 60_exceptions.md R255 gives it no place. -/
def Obligations.OtherWidthsRefused : Prop :=
  ∀ (s : State) (a : AgentId) (width : Nat) (w : AccWord), width ≠ 32 → s.agent a = .atRest →
    runEvent (.request a (.acc width w)) s = .next (refuseOp .width { s with actor := a })

/-- `RD32` with nothing pending at its offset (40_register_window.md R147): the word of `ReadValue` goes to the caller;
no field, latch, line or queue changes. -/
def Obligations.Rd32ReturnsControlWord : Prop :=
  ∀ (s : State) (b : Bus), s.agent s.actor = .atRest → s.win.status = .mapped → s.pend.get b = [] →
    exec (.rd32 (Config.off b)) s = .next
      { s with
        draws := s.draws + 2
        trace := .returned s.actor (.word (readValue b s)) :: .read s.actor (Config.off b) (readValue b s) :: s.trace }

/-- `FLUSH` with nothing pending at its offset (40_register_window.md R149): it is still a read, and its result is
discarded. -/
def Obligations.FlushReadsAndDiscards : Prop :=
  ∀ (s : State) (b : Bus), s.agent s.actor = .atRest → s.win.status = .mapped → s.pend.get b = [] →
    exec (.flush (Config.off b)) s = .next
      { s with draws := s.draws + 2, trace := .read s.actor (Config.off b) (readValue b s) :: s.trace }

/-- `RD32` and `FLUSH` hold while writes to the same offset are pending (40_register_window.md R147): nothing changes but
that the caller waits, and once the queue is empty its next micro-step completes the read. That the caller is
committed to the read is the model's choice (assumption log 10). -/
def Obligations.PendingWritesHoldReads : Prop :=
  ∀ (s : State) (b : Bus), s.agent s.actor = .atRest → s.win.status = .mapped → s.pend.get b ≠ [] →
    exec (.rd32 (Config.off b)) s =
      .next (s.setAgent s.actor { AgentRec.atRest with task := .waiting (.read (Config.off b)) }) ∧
    exec (.flush (Config.off b)) s =
      .next (s.setAgent s.actor { AgentRec.atRest with task := .waiting (.flush (Config.off b)) })

/-- A waiting read stays held while its queue is not empty and completes when it is (40_register_window.md R147); then
nothing changes but the observation, the draws and the caller, which is at rest. That it waits in its caller and is
tried again at the caller's micro-steps is the model's choice (assumption log 10). -/
def Obligations.HeldReadCompletesWhenDrained : Prop :=
  ∀ (s : State) (a : AgentId) (b : Bus), s.Inv → s.win.status = .mapped →
    (s.agent a = { AgentRec.atRest with task := .waiting (.read (Config.off b)) } →
      (s.pend.get b ≠ [] → runEvent (.micro a) s = .next { s with actor := a }) ∧
      (s.pend.get b = [] → ∃ t, runEvent (.micro a) s = .next t ∧ t.agent a = .atRest ∧
        (∀ a', a' ≠ a → t.agent a' = s.agent a') ∧
        t.trace = .returned a (.word (readValue b s)) :: .read a (Config.off b) (readValue b s) :: s.trace ∧
        t = { s with agents := t.agents, actor := a, draws := t.draws, trace := t.trace })) ∧
    (s.agent a = { AgentRec.atRest with task := .waiting (.flush (Config.off b)) } →
      (s.pend.get b ≠ [] → runEvent (.micro a) s = .next { s with actor := a }) ∧
      (s.pend.get b = [] → ∃ t, runEvent (.micro a) s = .next t ∧ t.agent a = .atRest ∧
        (∀ a', a' ≠ a → t.agent a' = s.agent a') ∧
        t.trace = .read a (Config.off b) (readValue b s) :: s.trace ∧
        t = { s with agents := t.agents, actor := a, draws := t.draws, trace := t.trace }))

/-- Whenever any step of the machine returns a read, every write issued to that offset has performed: its queue is
empty, and the word read is that of `ReadValue` (20_memory.md R81). -/
def Obligations.ReadsReturnOnlyWhenDrained : Prop :=
  ∀ (e : Event) (s t : State) (new : List Obs) (a : AgentId) (off : Nat) (v : Word),
    runEvent e s = .next t → t.trace = new ++ s.trace → .read a off v ∈ new →
    ∃ b, off = Config.off b ∧ s.pend.get b = [] ∧ t.pend = s.pend ∧ v = readValue b s

/-! ### Posted writes -/

/-- The posting path performs the head of the queue and removes it (20_memory.md R79). That its step changes nothing
with an empty queue, where R79 has none, is the model's choice (assumption log 1). -/
def Obligations.PostingStepPerformsHead : Prop :=
  ∀ (s : State) (b : Bus),
    (s.pend.get b = [] → runEvent (.post b) s = .next s) ∧
    (∀ w rest, s.pend.get b = w :: rest →
      runEvent (.post b) s = .next (performWrite b w
        { s with pend := s.pend.set b rest, trace := .perform (Config.off b) w :: s.trace }))

/-- Each issued word is performed exactly once and in issue order; what is not yet performed is pending (20_memory.md
R78, R80). Every step keeps this. -/
def Obligations.IssuedWritesPerformOnceInOrder : Prop :=
  ∀ s t : State, step s = .next t →
    (∀ b, issuedWords b s.trace = performedWords b s.trace ++ s.pend.get b) →
    ∀ b, issuedWords b t.trace = performedWords b t.trace ++ t.pend.get b

/-! ### Faults and refusals -/

/-- Fault entry (60_exceptions.md R256), over every step that records a fault: the reason, the agent and its micro-step
are recorded, the agent stops where it is, and nothing else changes. -/
def Obligations.FaultEntryChangesNothingElse : Prop :=
  ∀ (e : Event) (s t : State), runEvent e s = .next t → t.faults ≠ s.faults →
    ∃ (a : AgentId) (r : FaultReason),
      (e = .micro a ∨ ∃ q, e = .request a q) ∧ (s.agent a).stopped = false ∧
      t.faults = { reason := r, agent := a, step := (s.agent a).seq.index } :: s.faults ∧
      t.agent a = { s.agent a with stopped := true } ∧ (∀ a', a' ≠ a → t.agent a' = s.agent a') ∧
      t = { s with faults := t.faults, agents := t.agents, actor := a }

/-- Refusal (60_exceptions.md R253), over every step that refuses, whether the mark was set before or not: the step is
that of the refused agent, which had not stopped; the mark is set, the agent stops, and nothing else changes. A step
that sets the mark is such a step. That the refusal is noted in the trace is the model's (assumption log 17). -/
def Obligations.RefusalChangesNothingElse : Prop :=
  ∀ (e : Event) (s t : State), runEvent e s = .next t →
    (t.refused ≠ s.refused → ∃ a r, t.trace = .refused a r :: s.trace) ∧
    ∀ (new : List Obs) (a : AgentId) (r : RefusalReason), t.trace = new ++ s.trace → .refused a r ∈ new →
      (e = .micro a ∨ ∃ q, e = .request a q) ∧ (s.agent a).stopped = false ∧
      t.refused = true ∧ t.trace = .refused a r :: s.trace ∧ t.agent a = { s.agent a with stopped := true } ∧
      (∀ a', a' ≠ a → t.agent a' = s.agent a') ∧
      t = { s with refused := true, agents := t.agents, actor := a, trace := t.trace }

/-- No step clears a fault or the refusal mark (10_state.md R46). -/
def Obligations.FaultsAndRefusalAreSticky : Prop :=
  ∀ s t : State, step s = .next t → (∀ f ∈ s.faults, f ∈ t.faults) ∧ (s.refused = true → t.refused = true)

/-- A stopped agent takes no further step (60_exceptions.md R253, R256): no event changes its record, and its own
events change nothing but whose step it is. That a request of it has this form, one whose word encodes no access too,
is the model's choice (assumption log 1). -/
def Obligations.StoppedAgentTakesNoStep : Prop :=
  ∀ (s : State) (a : AgentId), (s.agent a).stopped = true →
    (∀ e t, runEvent e s = .next t → t.agent a = s.agent a) ∧
    runEvent (.micro a) s = .next { s with actor := a } ∧
    (∀ q, runEvent (.request a q) s = .next { s with actor := a })

/-! ### Whole-machine rules -/

/-- Only the performance of a write to `off(b)` with the enable bit set changes a direction or an output latch, and it
takes the value bit; both latches are `None` at reset (10_state.md R34, R35). -/
def Obligations.LatchesChangeOnlyAtPerformance : Prop :=
  (∀ b l, State.reset.dir.get b l = none ∧ State.reset.out.get b l = none) ∧
  ∀ (s t : State) (b : Bus) (l : Line), step s = .next t →
    (t.dir.get b l ≠ s.dir.get b l → ∃ w rest, s.schedule.head? = some (.post b) ∧ s.pend.get b = w :: rest ∧
      w.getLsbD (lineBase l) = true ∧
      t.dir.get b l = some (if w.getLsbD (lineBase l + 1) then .output else .input)) ∧
    (t.out.get b l ≠ s.out.get b l → ∃ w rest, s.schedule.head? = some (.post b) ∧ s.pend.get b = w :: rest ∧
      w.getLsbD (lineBase l + 2) = true ∧ t.out.get b l = some (w.getLsbD (lineBase l + 3)))

/-- The input latch changes only at a capture (10_state.md R36): the performance of a write to its word, or a
spontaneous sample of its line. -/
def Obligations.InputLatchChangesOnlyAtCapture : Prop :=
  ∀ (s t : State) (b : Bus) (l : Line), step s = .next t → t.inl.get b l ≠ s.inl.get b l →
    (s.schedule.head? = some (.post b) ∧ s.pend.get b ≠ []) ∨
    (s.schedule.head? = some (.sample b l) ∧ Config.spontaneousSample = true)

/-- Only the environment writes `peer_low` (10_state.md R42); `settled` changes only at a performance, a peer step or a
settle step (41_line_driver.md R183, R185). -/
def Obligations.WireStateChangesOnlyByItsSteps : Prop :=
  ∀ (s t : State) (b : Bus) (l : Line), step s = .next t →
    (t.peerLow.get b l ≠ s.peerLow.get b l → s.schedule.head? = some (.peer b l (t.peerLow.get b l))) ∧
    (t.settled.get b l ≠ s.settled.get b l →
      (∃ b', s.schedule.head? = some (.post b') ∧ s.pend.get b' ≠ []) ∨
      (∃ b' l' low, s.schedule.head? = some (.peer b' l' low)) ∨
      (s.schedule.head? = some (.settle b l) ∧ t.settled.get b l = true))

/-- The window changes only when `OPEN` or `ATTACH` maps it while it is not mapped, or `CLOSE` (of a `DETACH` too)
unmaps it, with no bus registered, no primitive in flight and nothing pending (10_state.md R40, 40_register_window.md
R140, R150). A `CLOSE` is a call of it, or the micro-step of an agent that waits in one or has only the `CLOSE` of its
`DETACH` left (assumption logs 9 and 10). None closes the window while an `ATTACH` has the turn (assumption log 29). -/
def Obligations.WindowChangesOnlyByOpenAndClose : Prop :=
  ∀ s t : State, step s = .next t → t.win ≠ s.win →
    (s.win.status ≠ .mapped ∧ t.win.status = .mapped ∧ ∃ a phys,
      s.schedule.head? = some (.request a (.call (.openWin phys))) ∨
      s.schedule.head? = some (.request a (.call (.attach phys)))) ∨
    (s.win.status = .mapped ∧ t.win = { status := .closed, base := none } ∧
      s.buses = [] ∧ s.busyAgents = [] ∧ (∀ b, s.pend.get b = []) ∧
      s.attachTurn = none ∧ ∃ a,
        s.schedule.head? = some (.request a (.call .close)) ∨ s.schedule.head? = some (.request a (.call .detach)) ∨
        (s.schedule.head? = some (.micro a) ∧ ((s.agent a).task = .waiting .close ∨ (s.agent a).task = .detach [])))

/-- Every step keeps the invariant, from every state that meets it. -/
def Obligations.StepKeepsInv : Prop :=
  ∀ s t : State, s.Inv → step s = .next t → t.Inv

/-- Every step keeps the window mapped under an `ATTACH` that goes on (42_lifecycle.md R230): no `CLOSE` or `DETACH` of
another agent (60_exceptions.md R259) unmaps it. That an `ATTACH` outside its primitives has the turn is the model's
choice (assumption log 29). -/
def Obligations.StepKeepsAttachWindow : Prop :=
  ∀ s t : State, s.Inv → s.AttachWindow → step s = .next t → t.AttachWindow

/-- The invariant holds after reset, and no `ATTACH` goes on without a window. -/
def Obligations.ResetMeetsInv : Prop := State.reset.Inv ∧ State.reset.AttachWindow

/-- From a state that meets the invariant no step stops the machine with a fault, and a step is refused only for the
request, by an agent at rest, of a word that encodes no access (assumption logs 1 and 13): ordinary data and the spec's own faults never end a run. -/
def Obligations.MachineNeverStops : Prop :=
  ∀ s : State, s.Inv →
    (∀ f, step s ≠ .fault f) ∧
    (∀ r, step s = .refused r → ∃ a w rest e,
      s.schedule = .request a (.acc 32 w) :: rest ∧ s.agent a = .atRest ∧ decode w = .error e ∧ r = .undecodable e)

/-! ### Primitives -/

/-- A caller at rest starts a primitive on a registered bus and goes to `Busy(prim, b, 0, None)` (10_state.md R44);
on any other bus the start faults `F_NO_BUS` (41_line_driver.md R180). An agent that is busy cannot start a second
primitive (R180): its request changes nothing, and neither does any request of an agent that is engaged or stopped
(assumption logs 1 and 10). -/
def Obligations.PrimitivesStartOnRegisteredBuses : Prop :=
  ∀ (s : State) (l : Line) (v : Bool) (b : Bus),
    (s.agent s.actor = .atRest → (∃ x ∈ s.buses, x.bus = b) →
      exec (setInstr l v b) s =
        .next (s.setAgent s.actor { AgentRec.atRest with seq := .busy (setPrim l v) b 0 none }) ∧
      exec (getInstr l b) s =
        .next (s.setAgent s.actor { AgentRec.atRest with seq := .busy (getPrim l) b 0 none })) ∧
    (s.agent s.actor = .atRest → (∀ x ∈ s.buses, x.bus ≠ b) →
      exec (setInstr l v b) s = .next (raiseFault (.noBus b (setPrim l v)) s) ∧
      exec (getInstr l b) s = .next (raiseFault (.noBus b (getPrim l)) s)) ∧
    (s.agent s.actor ≠ .atRest → (∀ i, exec i s = .next s) ∧ ∀ q, runRequest q s = .next s)

/-- How the step index advances (10_state.md R44): by one, or not at all in a hold; the last micro-step moves the agent to
`Idle`, a caller to rest and an agent inside an `ATTACH` to its next stage; a faulting one leaves the agent stopped at
its step. That the return is a step of its own, and that an `ATTACH` keeps its stage beside the sequencer, are the
model's (assumption logs 7 and 8). -/
def Obligations.MicroStepsAdvanceByOne : Prop :=
  ∀ (s t : State) (a : AgentId) (p : Prim) (b : Bus) (k : Nat) (r : Option Word),
    s.Inv → (s.agent a).seq = .busy p b k r → (s.agent a).stopped = false → runEvent (.micro a) s = .next t →
    (k < (microOps p).length ∧ ∃ r', (t.agent a).seq = .busy p b (k + 1) r' ∧ (t.agent a).stopped = false) ∨
    ((microOps p)[k]? = some .read ∧ s.pend.get b ≠ [] ∧ t = { s with actor := a }) ∨
    (k < (microOps p).length ∧ t.agent a = { s.agent a with stopped := true }) ∨
    (k = (microOps p).length ∧ (s.agent a).task = .none ∧ t.agent a = .atRest) ∨
    (k = (microOps p).length ∧ ∃ st, (s.agent a).task = .attach st ∧
      t.agent a = { s.agent a with seq := .idle, task := .attach st.next })

/-- Bus isolation (41_line_driver.md R195): a micro-step of a primitive on `b` issues accesses at `off(b)` only, and
touches no queue but that of `b`. -/
def Obligations.PrimitivesStayOnTheirBus : Prop :=
  ∀ (s t : State) (a : AgentId) (p : Prim) (b : Bus) (k : Nat) (r : Option Word),
    (s.agent a).seq = .busy p b k r → runEvent (.micro a) s = .next t →
    (∀ b', b' ≠ b → t.pend.get b' = s.pend.get b') ∧
    ∃ new, t.trace = new ++ s.trace ∧
      (∀ a' off w, .write a' off w ∈ new → a' = a ∧ off = Config.off b) ∧
      (∀ a' off w, .read a' off w ∈ new → a' = a ∧ off = Config.off b)

/-- The whole of `SET_CLOCK` and `SET_DATA` (41_line_driver.md R189, R190), run by one caller while the posting path
drains the queue: the accesses are one write of the set word and one read; then the line is driven as asked, the other
line is as it was unless a write queued before touches it, and the other bus is untouched. -/
def Obligations.SetPrimitiveDrivesItsLine : Prop :=
  ∀ (s : State) (a : AgentId) (b : Bus) (l : Line) (v : Bool), s.Inv → s.agent a = .atRest →
    s.win.status = .mapped → (∃ x ∈ s.buses, x.bus = b) →
    ∃ t r, runAll (.request a (.call (setInstr l v b)) :: .micro a ::
        (List.replicate ((s.pend.get b).length + 1) (.post b) ++ [.micro a, .micro a])) s = .next t ∧
      t.agent a = .atRest ∧ t.pend.get b = [] ∧
      t.dir.get b l = some .output ∧ t.out.get b l = some v ∧
      t.drive b l = (if v then .high else .low) ∧
      t.trace = .read a (Config.off b) r ::
        (((s.pend.get b ++ [setWord l v]).map (Obs.perform (Config.off b))).reverse ++
          .write a (Config.off b) (setWord l v) :: s.trace) ∧
      (∀ l', l' ≠ l → (∀ w ∈ s.pend.get b, touches l' w = false) →
        t.dir.get b l' = s.dir.get b l' ∧ t.out.get b l' = s.out.get b l') ∧
      (∀ b' l', b' ≠ b → t.dir.get b' l' = s.dir.get b' l' ∧ t.out.get b' l' = s.out.get b' l' ∧
        t.inl.get b' l' = s.inl.get b' l' ∧ t.pend.get b' = s.pend.get b') ∧
      (∀ a', a' ≠ a → t.agent a' = s.agent a') ∧
      t.win = s.win ∧ t.buses = s.buses ∧ t.attached = s.attached ∧ t.faults = s.faults ∧ t.refused = s.refused ∧
      t.peerLow = s.peerLow ∧ t.schedule = s.schedule

/-- The whole of `GET_CLOCK` and `GET_DATA` (41_line_driver.md R191, R192), run by one caller while the posting path
drains a queue that does not touch the line: the accesses are the release word, the latch word and one read; the
result is `false` with a peer pulling low and `true` from a line at level 1; the direction is input and the output
latch is kept. -/
def Obligations.GetPrimitiveSamplesItsLine : Prop :=
  ∀ (s : State) (a : AgentId) (b : Bus) (l : Line), s.Inv → s.agent a = .atRest →
    s.win.status = .mapped → (∃ x ∈ s.buses, x.bus = b) → (∀ w ∈ s.pend.get b, touches l w = false) →
    ∃ t r v, runAll (.request a (.call (getInstr l b)) :: .micro a :: .micro a ::
        (List.replicate ((s.pend.get b).length + 2) (.post b) ++ [.micro a, .micro a])) s = .next t ∧
      (s.peerLow.get b l = true → v = false) ∧ (s.level b l = .one → v = true) ∧
      t.agent a = .atRest ∧ t.pend.get b = [] ∧
      t.inl.get b l = some v ∧ t.dir.get b l = some .input ∧ t.out.get b l = s.out.get b l ∧
      t.trace = .returned a (.level v) :: .read a (Config.off b) r ::
        (((s.pend.get b ++ [relWord l, 0]).map (Obs.perform (Config.off b))).reverse ++
          .write a (Config.off b) 0 :: .write a (Config.off b) (relWord l) :: s.trace) ∧
      (∀ l', l' ≠ l → (∀ w ∈ s.pend.get b, touches l' w = false) →
        t.dir.get b l' = s.dir.get b l' ∧ t.out.get b l' = s.out.get b l') ∧
      (∀ b' l', b' ≠ b → t.dir.get b' l' = s.dir.get b' l' ∧ t.out.get b' l' = s.out.get b' l' ∧
        t.inl.get b' l' = s.inl.get b' l' ∧ t.pend.get b' = s.pend.get b') ∧
      (∀ a', a' ≠ a → t.agent a' = s.agent a') ∧
      t.win = s.win ∧ t.buses = s.buses ∧ t.attached = s.attached ∧ t.faults = s.faults ∧ t.refused = s.refused ∧
      t.peerLow = s.peerLow ∧ t.schedule = s.schedule

/-- First half of the round trip with release (41_line_driver.md R196), under every interleaving: if no peer pulls the
line low and no write but the caller's own `SET_*(true)` touches it, then when that `SET_*` is about to return the line
is at level 1 and no queued write touches it. -/
def Obligations.SetHighLeavesLineHigh : Prop :=
  ∀ (s t : State) (es : List Event) (new : List Obs) (a : AgentId) (b : Bus) (l : Line) (r : Option Word),
    s.Inv → s.agent a = .atRest → s.peerLow.get b l = false → (∀ w ∈ s.pend.get b, touches l w = false) →
    runAll es s = .next t → (∀ e ∈ es, e ≠ .peer b l true) → t.trace = new ++ s.trace →
    (∀ a' w, .write a' (Config.off b) w ∈ new → touches l w = true → a' = a ∧ w = setWord l true) →
    (t.agent a).seq = .busy (setPrim l true) b 2 r →
    t.level b l = .one ∧ ∀ w ∈ t.pend.get b, touches l w = false

/-- Second half (41_line_driver.md R196), under every interleaving and for both values of `SIBLING_GLITCH` and
`SPONTANEOUS_SAMPLE`: from a line at level 1, with no peer pulling it low and no write but release words touching it,
a `GET_*` has read a set input bit when it is about to return. -/
def Obligations.GetAfterReleaseReadsHigh : Prop :=
  ∀ (s t : State) (es : List Event) (new : List Obs) (a : AgentId) (b : Bus) (l : Line) (r : Option Word),
    s.Inv → s.agent a = .atRest → s.level b l = .one →
    (∀ w ∈ s.pend.get b, touches l w = true → w = relWord l) →
    runAll es s = .next t → (∀ e ∈ es, e ≠ .peer b l true) → t.trace = new ++ s.trace →
    (∀ a' w, .write a' (Config.off b) w ∈ new → touches l w = true → w = relWord l) →
    (t.agent a).seq = .busy (getPrim l) b 3 r →
    ∃ w, r = some w ∧ inputBit l w = true

/-- Every primitive ends in every fair run (70_reset_and_hazards.md R303) in which no other agent keeps writing to its
offset: it returns, or its agent stops at a fault. -/
def Obligations.PrimitiveEndsInFairRun : Prop :=
  ∀ (states : Nat → State) (events : Nat → Event) (a : AgentId) (p : Prim) (b : Bus) (k : Nat) (r : Option Word),
    FairRun states events → (states 0).Inv → ((states 0).agent a).seq = .busy p b k r →
    (∀ n, ((states n).pend.get b).length < ((states (n + 1)).pend.get b).length → events n = .micro a) →
    ∃ n, ((states n).agent a).stopped = true ∨ ∀ k' r', ((states n).agent a).seq ≠ .busy p b k' r'

/-! ### The window and the lifecycle -/

/-- The window address (40_register_window.md R141): exact addition, an overflow check, and the sum rounded down to its
page. -/
def Obligations.WindowAddressRoundsDown : Prop :=
  ∀ width phys : Nat, 16 ≤ width →
    (2 ^ width ≤ phys + 0x5000 → windowAddress width phys = (false, phys + 0x5000)) ∧
    (phys + 0x5000 < 2 ^ width →
      windowAddress width phys = (true, phys + 0x5000 - (phys + 0x5000) % 0x1000))

/-- `OPEN` (40_register_window.md R140) and the first step of `ATTACH` (42_lifecycle.md R230): with a valid address the
mapping service's answer decides; on `ok` the window is mapped at the masked address, on `fail` and on an invalid
address the result is `MapError` with the address and no other state changes (R233, 60_exceptions.md R251). That an
`ATTACH`'s `OPEN` is a step of its own, and that the oracle's history is the observation, are the model's (assumption
logs 8 and 4). -/
def Obligations.OpenAndAttachMapTheWindow : Prop :=
  ∀ (s : State) (phys : Nat), s.agent s.actor = .atRest → s.win.status ≠ .mapped →
    let sum := phys + 0x5000
    let base := sum - sum % 0x1000
    let mapped : State := { s with win := { status := .mapped, base := some base } }
    let failed := fun address => { s with trace := Obs.returned s.actor (.mapError address) :: s.trace }
    (sum < 2 ^ Config.physAddrWidth →
      exec (.openWin phys) s = .next (if Config.mapOracle base 0x1000 s.trace
        then { mapped with trace := .returned s.actor .ok :: s.trace } else failed base) ∧
      exec (.attach phys) s = .next (if Config.mapOracle base 0x1000 s.trace
        then mapped.setAgent s.actor { AgentRec.atRest with task := .attach .initI2cClk } else failed base)) ∧
    (2 ^ Config.physAddrWidth ≤ sum →
      exec (.openWin phys) s = .next (failed sum) ∧ exec (.attach phys) s = .next (failed sum))

/-- A second `OPEN` or `ATTACH` while a window is mapped faults `F_DOUBLE_OPEN` (40_register_window.md R140,
42_lifecycle.md R236). -/
def Obligations.SecondOpenFaults : Prop :=
  ∀ (s : State) (phys : Nat), s.agent s.actor = .atRest → s.win.status = .mapped →
    exec (.openWin phys) s = .next (raiseFault (.doubleOpen s.win.base) s) ∧
    exec (.attach phys) s = .next (raiseFault (.doubleOpen s.win.base) s)

/-- `CLOSE` (40_register_window.md R150), its cases in their order; latches and lines keep their values. That a caller
whose `CLOSE` holds waits in it is the model's choice (assumption log 10). -/
def Obligations.CloseUnmapsTheWindow : Prop :=
  ∀ s : State, s.agent s.actor = .atRest →
    (s.win.status ≠ .mapped → exec .close s = .next s) ∧
    (s.win.status = .mapped → s.buses ≠ [] ∨ s.busyAgents ≠ [] →
      exec .close s = .next (raiseFault (.teardownOrder (s.buses.map LogicalBus.name) s.busyAgents) s)) ∧
    (s.win.status = .mapped → s.buses = [] → s.busyAgents = [] → (∃ b, s.pend.get b ≠ []) →
      exec .close s = .next (s.setAgent s.actor { AgentRec.atRest with task := .waiting .close })) ∧
    (s.win.status = .mapped → s.buses = [] → s.busyAgents = [] → (∀ b, s.pend.get b = []) →
      exec .close s = .next { s with win := { status := .closed, base := none } })

/-- A `CLOSE` that held (40_register_window.md R150) tries again at its agent's micro-steps: it stays held while a write
is pending and closes the window once none is. That it waits in its caller is the model's choice (assumption log
10). -/
def Obligations.HeldCloseCompletesWhenDrained : Prop :=
  ∀ (s : State) (a : AgentId), s.Inv → s.win.status = .mapped → s.buses = [] → s.busyAgents = [] →
    s.agent a = { AgentRec.atRest with task := .waiting .close } →
    ((∃ b, s.pend.get b ≠ []) → runEvent (.micro a) s = .next { s with actor := a }) ∧
    ((∀ b, s.pend.get b = []) → ∃ t, runEvent (.micro a) s = .next t ∧ t.agent a = .atRest ∧
      (∀ a', a' ≠ a → t.agent a' = s.agent a') ∧
      t = { s with win := { status := .closed, base := none }, agents := t.agents, actor := a })

/-- The busy agents are those with a primitive in flight (40_register_window.md R150), and the turn of an `ATTACH` falls to
an agent that stands inside one, `Idle` and not stopped, where there is any (assumption log 29). -/
def Obligations.BusyAgentsAreThoseInPrimitives : Prop :=
  ∀ (s : State) (a : AgentId),
    (s.Inv → (a ∈ s.busyAgents ↔ ∃ p b k r, (s.agent a).seq = .busy p b k r)) ∧
    (s.attachTurn = some a →
      (s.agent a).seq = .idle ∧ (∃ st, (s.agent a).task = .attach st) ∧ (s.agent a).stopped = false) ∧
    (s.attachTurn = none → ∀ st, (s.agent a).task = .attach st → (s.agent a).stopped = false → (s.agent a).seq ≠ .idle)

/-- The rest of a successful `ATTACH` (42_lifecycle.md R230 to R232), run by its agent with nobody else moving but the
posting path: four primitives, each started, written, performed, read and returned from, then the two registrations
and the return. Where it is cut into these steps is the model's choice (assumption logs 7 and 8). The eight accesses
are issued in their order, all four lines driven high and at level 1 where no peer pulls, the two buses registered
in order under their exact names, `attached`, and the result `Ok`. -/
def Obligations.AttachInitialisesAndRegisters : Prop :=
  ∀ (s : State) (a : AgentId), s.Inv → s.win.status = .mapped → (∀ b, s.pend.get b = []) →
    s.agent a = { AgentRec.atRest with task := .attach .initI2cClk } →
    ∃ (t : State) (r1 r2 r3 r4 : Word),
      runAll ([.i2c, .i2c, .ddc, .ddc].flatMap (fun b => [.micro a, .micro a, .post b, .micro a, .micro a]) ++
        [.micro a, .micro a, .micro a]) s = .next t ∧
      t.agent a = .atRest ∧ t.attached = true ∧
      t.buses = [{ name := "I810/I815 I2C Adapter", bus := .i2c }, { name := "I810/I815 DDC Adapter", bus := .ddc }] ∧
      (∀ b l, t.dir.get b l = some .output ∧ t.out.get b l = some true ∧
        (s.peerLow.get b l = false → t.level b l = .one)) ∧
      t.trace = [.returned a .ok,
        .read a 0x14 r4, .perform 0x14 0xF00, .write a 0x14 0xF00, .read a 0x14 r3, .perform 0x14 0xF, .write a 0x14 0xF,
        .read a 0x10 r2, .perform 0x10 0xF00, .write a 0x10 0xF00, .read a 0x10 r1, .perform 0x10 0xF, .write a 0x10 0xF]
          ++ s.trace ∧
      (∀ b, t.pend.get b = []) ∧ (∀ a', a' ≠ a → t.agent a' = s.agent a') ∧
      t.win = s.win ∧ t.faults = s.faults ∧ t.refused = s.refused ∧ t.peerLow = s.peerLow ∧ t.schedule = s.schedule

/-- No step of an `ATTACH` faults or refuses, whether or not a bus is registered (42_lifecycle.md R230, 41_line_driver.md
R180): the window is mapped at each of them and stays so, up to the step that returns `Ok`. Where an `ATTACH` is cut into
these steps, and the turn it has between its primitives, on which the premise `AttachWindow` rests, are the model's choice
(assumption logs 7, 8 and 29). -/
def Obligations.AttachStepNeverFaults : Prop :=
  ∀ (s t : State) (a : AgentId) (st : AttachStage), s.Inv → s.AttachWindow → (s.agent a).task = .attach st →
    runEvent (.micro a) s = .next t →
    t.faults = s.faults ∧ t.refused = s.refused ∧ t.win = s.win ∧
    ((s.agent a).stopped = false → s.win.status = .mapped ∧ (t.agent a).stopped = false)

/-- `F_NO_WINDOW` cannot happen in an `ATTACH` (42_lifecycle.md R230), in every run of the machine from a state with any
schedule, a `CLOSE` and a `DETACH` by other agents among its events (60_exceptions.md R259): while the agent is inside its
`ATTACH` it has not stopped and the window is mapped. Where no `CLOSE` and no `DETACH` is called or under way the window
stays mapped after it, too, under every interleaving. Where an `ATTACH` is cut into steps, and the turn it has between its
primitives, are the model's choice (assumption logs 7, 8 and 29). -/
def Obligations.AttachNeverFaults : Prop :=
  ∀ (s : State) (a : AgentId) (st : AttachStage), s.Inv → s.AttachWindow →
    (s.agent a).task = .attach st → (s.agent a).stopped = false →
    (∀ n t st', Host.Core.run Sys2Proof.core n s = .next t → (t.agent a).task = .attach st' →
      (t.agent a).stopped = false ∧ t.win.status = .mapped) ∧
    ((∀ a', (s.agent a').task ≠ .waiting .close ∧ ∀ rem, (s.agent a').task ≠ .detach rem) →
      ∀ es t, (∀ e ∈ es, ∀ a', e ≠ .request a' (.call .close) ∧ e ≠ .request a' (.call .detach)) →
        runAll es s = .next t → t.win.status = .mapped)

/-- The first step of `DETACH` (42_lifecycle.md R234): the last registered bus is unregistered; with none registered it
is the `CLOSE`, in the cases of 40_register_window.md R150. That it is cut into one bus a step, by the registry as it
stands here, and that a `CLOSE` that holds waits in it, are the model's choice (assumption log 9). -/
def Obligations.DetachUnregistersLastBusFirst : Prop :=
  ∀ s : State, s.agent s.actor = .atRest →
    (∀ front x, s.buses = front ++ [x] →
      exec .detach s = .next ({ s with buses := s.buses.filter fun y => y ≠ x }.setAgent s.actor
        { AgentRec.atRest with task := .detach front.reverse })) ∧
    (s.buses = [] → s.win.status ≠ .mapped →
      exec .detach s = .next ({ s with attached := false }.setAgent s.actor .atRest)) ∧
    (s.buses = [] → s.win.status = .mapped → s.busyAgents ≠ [] →
      exec .detach s = .next (raiseFault (.teardownOrder [] s.busyAgents) s)) ∧
    (s.buses = [] → s.win.status = .mapped → s.busyAgents = [] → (∃ b, s.pend.get b ≠ []) →
      exec .detach s = .next (s.setAgent s.actor { AgentRec.atRest with task := .detach [] })) ∧
    (s.buses = [] → s.win.status = .mapped → s.busyAgents = [] → (∀ b, s.pend.get b = []) →
      exec .detach s = .next
        ({ s with win := { status := .closed, base := none }, attached := false }.setAgent s.actor .atRest))

/-- The further steps of a `DETACH` (42_lifecycle.md R234): the next bus of its list is unregistered; with none left it
is the `CLOSE`, in the cases of 40_register_window.md R150, its `F_TEARDOWN_ORDER` among them. Where a `DETACH` is cut
into steps is the model's choice (assumption log 9). -/
def Obligations.DetachLaterSteps : Prop :=
  ∀ (s : State) (a : AgentId), s.Inv →
    (∀ x rest, s.agent a = { AgentRec.atRest with task := .detach (x :: rest) } →
      runEvent (.micro a) s = .next ({ s with buses := s.buses.filter fun y => y ≠ x, actor := a }.setAgent a
        { AgentRec.atRest with task := .detach rest })) ∧
    (s.agent a = { AgentRec.atRest with task := .detach [] } →
      (s.win.status ≠ .mapped →
        runEvent (.micro a) s = .next ({ s with attached := false, actor := a }.setAgent a .atRest)) ∧
      (s.win.status = .mapped → s.buses ≠ [] ∨ s.busyAgents ≠ [] →
        runEvent (.micro a) s =
          .next (raiseFault (.teardownOrder (s.buses.map LogicalBus.name) s.busyAgents) { s with actor := a })) ∧
      (s.win.status = .mapped → s.buses = [] → s.busyAgents = [] → (∃ b, s.pend.get b ≠ []) →
        runEvent (.micro a) s = .next { s with actor := a }) ∧
      (s.win.status = .mapped → s.buses = [] → s.busyAgents = [] → (∀ b, s.pend.get b = []) →
        runEvent (.micro a) s = .next ({ s with
          win := { status := .closed, base := none }, attached := false, actor := a }.setAgent a .atRest)))

/-- The whole of `DETACH` after an `ATTACH` (42_lifecycle.md R234): DDC is unregistered, then I2C, then the window is
closed; it issues no access and no latch or line changes. That these are its three steps is the model's choice
(assumption log 9). -/
def Obligations.DetachTearsDownInReverse : Prop :=
  ∀ (s : State) (a : AgentId), s.Inv → s.agent a = .atRest → s.win.status = .mapped →
    s.buses = [logicalBus .i2c, logicalBus .ddc] → s.busyAgents = [] → (∀ b, s.pend.get b = []) →
    ∃ t1 t2 t3, runEvent (.request a (.call .detach)) s = .next t1 ∧ t1.buses = [logicalBus .i2c] ∧
      runEvent (.micro a) t1 = .next t2 ∧ t2.buses = [] ∧ t2.win = s.win ∧
      runEvent (.micro a) t2 = .next t3 ∧ t3.agent a = .atRest ∧
      t3 = { s with
        win := { status := .closed, base := none }, buses := [], attached := false, actor := a, agents := t3.agents } ∧
      ∀ a', t3.agent a' = s.agent a'
end

