-- ==== Sys2Proof/Laws/State.lean ====
section
/-! SUPPORT. What each named update of State does to each field: one lemma for each, true by unfolding. -/

namespace Sys2Proof.Machine

/-! ### setAgent -/

@[simp] theorem setAgent_win (s : State) (a : AgentId) (r : AgentRec) : (s.setAgent a r).win = s.win := rfl
@[simp] theorem setAgent_dir (s : State) (a : AgentId) (r : AgentRec) : (s.setAgent a r).dir = s.dir := rfl
@[simp] theorem setAgent_out (s : State) (a : AgentId) (r : AgentRec) : (s.setAgent a r).out = s.out := rfl
@[simp] theorem setAgent_inl (s : State) (a : AgentId) (r : AgentRec) : (s.setAgent a r).inl = s.inl := rfl
@[simp] theorem setAgent_pend (s : State) (a : AgentId) (r : AgentRec) : (s.setAgent a r).pend = s.pend := rfl
@[simp] theorem setAgent_peerLow (s : State) (a : AgentId) (r : AgentRec) : (s.setAgent a r).peerLow = s.peerLow := rfl
@[simp] theorem setAgent_settled (s : State) (a : AgentId) (r : AgentRec) : (s.setAgent a r).settled = s.settled := rfl
@[simp] theorem setAgent_buses (s : State) (a : AgentId) (r : AgentRec) : (s.setAgent a r).buses = s.buses := rfl
@[simp] theorem setAgent_attached (s : State) (a : AgentId) (r : AgentRec) : (s.setAgent a r).attached = s.attached := rfl
@[simp] theorem setAgent_faults (s : State) (a : AgentId) (r : AgentRec) : (s.setAgent a r).faults = s.faults := rfl
@[simp] theorem setAgent_refused (s : State) (a : AgentId) (r : AgentRec) : (s.setAgent a r).refused = s.refused := rfl
@[simp] theorem setAgent_schedule (s : State) (a : AgentId) (r : AgentRec) : (s.setAgent a r).schedule = s.schedule := rfl
@[simp] theorem setAgent_actor (s : State) (a : AgentId) (r : AgentRec) : (s.setAgent a r).actor = s.actor := rfl
@[simp] theorem setAgent_draws (s : State) (a : AgentId) (r : AgentRec) : (s.setAgent a r).draws = s.draws := rfl
@[simp] theorem setAgent_trace (s : State) (a : AgentId) (r : AgentRec) : (s.setAgent a r).trace = s.trace := rfl
@[simp] theorem setAgent_agents (s : State) (a : AgentId) (r : AgentRec) : (s.setAgent a r).agents = insertAgent a r s.agents := rfl

/-! ### setMe -/

@[simp] theorem setMe_win (s : State) (r : AgentRec) : (s.setMe r).win = s.win := rfl
@[simp] theorem setMe_dir (s : State) (r : AgentRec) : (s.setMe r).dir = s.dir := rfl
@[simp] theorem setMe_out (s : State) (r : AgentRec) : (s.setMe r).out = s.out := rfl
@[simp] theorem setMe_inl (s : State) (r : AgentRec) : (s.setMe r).inl = s.inl := rfl
@[simp] theorem setMe_pend (s : State) (r : AgentRec) : (s.setMe r).pend = s.pend := rfl
@[simp] theorem setMe_peerLow (s : State) (r : AgentRec) : (s.setMe r).peerLow = s.peerLow := rfl
@[simp] theorem setMe_settled (s : State) (r : AgentRec) : (s.setMe r).settled = s.settled := rfl
@[simp] theorem setMe_buses (s : State) (r : AgentRec) : (s.setMe r).buses = s.buses := rfl
@[simp] theorem setMe_attached (s : State) (r : AgentRec) : (s.setMe r).attached = s.attached := rfl
@[simp] theorem setMe_faults (s : State) (r : AgentRec) : (s.setMe r).faults = s.faults := rfl
@[simp] theorem setMe_refused (s : State) (r : AgentRec) : (s.setMe r).refused = s.refused := rfl
@[simp] theorem setMe_schedule (s : State) (r : AgentRec) : (s.setMe r).schedule = s.schedule := rfl
@[simp] theorem setMe_actor (s : State) (r : AgentRec) : (s.setMe r).actor = s.actor := rfl
@[simp] theorem setMe_draws (s : State) (r : AgentRec) : (s.setMe r).draws = s.draws := rfl
@[simp] theorem setMe_trace (s : State) (r : AgentRec) : (s.setMe r).trace = s.trace := rfl
@[simp] theorem setMe_agents (s : State) (r : AgentRec) : (s.setMe r).agents = insertAgent s.actor r s.agents := rfl

/-! ### setSeq -/

@[simp] theorem setSeq_win (s : State) (q : SeqState) : (s.setSeq q).win = s.win := rfl
@[simp] theorem setSeq_dir (s : State) (q : SeqState) : (s.setSeq q).dir = s.dir := rfl
@[simp] theorem setSeq_out (s : State) (q : SeqState) : (s.setSeq q).out = s.out := rfl
@[simp] theorem setSeq_inl (s : State) (q : SeqState) : (s.setSeq q).inl = s.inl := rfl
@[simp] theorem setSeq_pend (s : State) (q : SeqState) : (s.setSeq q).pend = s.pend := rfl
@[simp] theorem setSeq_peerLow (s : State) (q : SeqState) : (s.setSeq q).peerLow = s.peerLow := rfl
@[simp] theorem setSeq_settled (s : State) (q : SeqState) : (s.setSeq q).settled = s.settled := rfl
@[simp] theorem setSeq_buses (s : State) (q : SeqState) : (s.setSeq q).buses = s.buses := rfl
@[simp] theorem setSeq_attached (s : State) (q : SeqState) : (s.setSeq q).attached = s.attached := rfl
@[simp] theorem setSeq_faults (s : State) (q : SeqState) : (s.setSeq q).faults = s.faults := rfl
@[simp] theorem setSeq_refused (s : State) (q : SeqState) : (s.setSeq q).refused = s.refused := rfl
@[simp] theorem setSeq_schedule (s : State) (q : SeqState) : (s.setSeq q).schedule = s.schedule := rfl
@[simp] theorem setSeq_actor (s : State) (q : SeqState) : (s.setSeq q).actor = s.actor := rfl
@[simp] theorem setSeq_draws (s : State) (q : SeqState) : (s.setSeq q).draws = s.draws := rfl
@[simp] theorem setSeq_trace (s : State) (q : SeqState) : (s.setSeq q).trace = s.trace := rfl
@[simp] theorem setSeq_agents (s : State) (q : SeqState) : (s.setSeq q).agents = insertAgent s.actor { s.me with seq := q } s.agents := rfl

/-! ### setTask -/

@[simp] theorem setTask_win (s : State) (k : Task) : (s.setTask k).win = s.win := rfl
@[simp] theorem setTask_dir (s : State) (k : Task) : (s.setTask k).dir = s.dir := rfl
@[simp] theorem setTask_out (s : State) (k : Task) : (s.setTask k).out = s.out := rfl
@[simp] theorem setTask_inl (s : State) (k : Task) : (s.setTask k).inl = s.inl := rfl
@[simp] theorem setTask_pend (s : State) (k : Task) : (s.setTask k).pend = s.pend := rfl
@[simp] theorem setTask_peerLow (s : State) (k : Task) : (s.setTask k).peerLow = s.peerLow := rfl
@[simp] theorem setTask_settled (s : State) (k : Task) : (s.setTask k).settled = s.settled := rfl
@[simp] theorem setTask_buses (s : State) (k : Task) : (s.setTask k).buses = s.buses := rfl
@[simp] theorem setTask_attached (s : State) (k : Task) : (s.setTask k).attached = s.attached := rfl
@[simp] theorem setTask_faults (s : State) (k : Task) : (s.setTask k).faults = s.faults := rfl
@[simp] theorem setTask_refused (s : State) (k : Task) : (s.setTask k).refused = s.refused := rfl
@[simp] theorem setTask_schedule (s : State) (k : Task) : (s.setTask k).schedule = s.schedule := rfl
@[simp] theorem setTask_actor (s : State) (k : Task) : (s.setTask k).actor = s.actor := rfl
@[simp] theorem setTask_draws (s : State) (k : Task) : (s.setTask k).draws = s.draws := rfl
@[simp] theorem setTask_trace (s : State) (k : Task) : (s.setTask k).trace = s.trace := rfl
@[simp] theorem setTask_agents (s : State) (k : Task) : (s.setTask k).agents = insertAgent s.actor { s.me with task := k } s.agents := rfl

/-! ### raiseFault -/

@[simp] theorem raiseFault_win (r : FaultReason) (s : State) : (raiseFault r s).win = s.win := rfl
@[simp] theorem raiseFault_dir (r : FaultReason) (s : State) : (raiseFault r s).dir = s.dir := rfl
@[simp] theorem raiseFault_out (r : FaultReason) (s : State) : (raiseFault r s).out = s.out := rfl
@[simp] theorem raiseFault_inl (r : FaultReason) (s : State) : (raiseFault r s).inl = s.inl := rfl
@[simp] theorem raiseFault_pend (r : FaultReason) (s : State) : (raiseFault r s).pend = s.pend := rfl
@[simp] theorem raiseFault_peerLow (r : FaultReason) (s : State) : (raiseFault r s).peerLow = s.peerLow := rfl
@[simp] theorem raiseFault_settled (r : FaultReason) (s : State) : (raiseFault r s).settled = s.settled := rfl
@[simp] theorem raiseFault_buses (r : FaultReason) (s : State) : (raiseFault r s).buses = s.buses := rfl
@[simp] theorem raiseFault_attached (r : FaultReason) (s : State) : (raiseFault r s).attached = s.attached := rfl
@[simp] theorem raiseFault_refused (r : FaultReason) (s : State) : (raiseFault r s).refused = s.refused := rfl
@[simp] theorem raiseFault_schedule (r : FaultReason) (s : State) : (raiseFault r s).schedule = s.schedule := rfl
@[simp] theorem raiseFault_actor (r : FaultReason) (s : State) : (raiseFault r s).actor = s.actor := rfl
@[simp] theorem raiseFault_draws (r : FaultReason) (s : State) : (raiseFault r s).draws = s.draws := rfl
@[simp] theorem raiseFault_trace (r : FaultReason) (s : State) : (raiseFault r s).trace = s.trace := rfl
@[simp] theorem raiseFault_agents (r : FaultReason) (s : State) : (raiseFault r s).agents = insertAgent s.actor { s.me with stopped := true } s.agents := rfl
@[simp] theorem raiseFault_faults (r : FaultReason) (s : State) : (raiseFault r s).faults = addFault { reason := r, agent := s.actor, step := s.me.seq.index } s.faults := rfl

/-! ### refuseOp -/

@[simp] theorem refuseOp_win (r : RefusalReason) (s : State) : (refuseOp r s).win = s.win := rfl
@[simp] theorem refuseOp_dir (r : RefusalReason) (s : State) : (refuseOp r s).dir = s.dir := rfl
@[simp] theorem refuseOp_out (r : RefusalReason) (s : State) : (refuseOp r s).out = s.out := rfl
@[simp] theorem refuseOp_inl (r : RefusalReason) (s : State) : (refuseOp r s).inl = s.inl := rfl
@[simp] theorem refuseOp_pend (r : RefusalReason) (s : State) : (refuseOp r s).pend = s.pend := rfl
@[simp] theorem refuseOp_peerLow (r : RefusalReason) (s : State) : (refuseOp r s).peerLow = s.peerLow := rfl
@[simp] theorem refuseOp_settled (r : RefusalReason) (s : State) : (refuseOp r s).settled = s.settled := rfl
@[simp] theorem refuseOp_buses (r : RefusalReason) (s : State) : (refuseOp r s).buses = s.buses := rfl
@[simp] theorem refuseOp_attached (r : RefusalReason) (s : State) : (refuseOp r s).attached = s.attached := rfl
@[simp] theorem refuseOp_faults (r : RefusalReason) (s : State) : (refuseOp r s).faults = s.faults := rfl
@[simp] theorem refuseOp_schedule (r : RefusalReason) (s : State) : (refuseOp r s).schedule = s.schedule := rfl
@[simp] theorem refuseOp_actor (r : RefusalReason) (s : State) : (refuseOp r s).actor = s.actor := rfl
@[simp] theorem refuseOp_draws (r : RefusalReason) (s : State) : (refuseOp r s).draws = s.draws := rfl
@[simp] theorem refuseOp_agents (r : RefusalReason) (s : State) : (refuseOp r s).agents = insertAgent s.actor { s.me with stopped := true } s.agents := rfl
@[simp] theorem refuseOp_refused (r : RefusalReason) (s : State) : (refuseOp r s).refused = true := rfl
@[simp] theorem refuseOp_trace (r : RefusalReason) (s : State) : (refuseOp r s).trace = .refused s.actor r :: s.trace := rfl

/-! ### deliver -/

@[simp] theorem deliver_win (r : Result) (s : State) : (deliver r s).win = s.win := rfl
@[simp] theorem deliver_dir (r : Result) (s : State) : (deliver r s).dir = s.dir := rfl
@[simp] theorem deliver_out (r : Result) (s : State) : (deliver r s).out = s.out := rfl
@[simp] theorem deliver_inl (r : Result) (s : State) : (deliver r s).inl = s.inl := rfl
@[simp] theorem deliver_pend (r : Result) (s : State) : (deliver r s).pend = s.pend := rfl
@[simp] theorem deliver_peerLow (r : Result) (s : State) : (deliver r s).peerLow = s.peerLow := rfl
@[simp] theorem deliver_settled (r : Result) (s : State) : (deliver r s).settled = s.settled := rfl
@[simp] theorem deliver_agents (r : Result) (s : State) : (deliver r s).agents = s.agents := rfl
@[simp] theorem deliver_buses (r : Result) (s : State) : (deliver r s).buses = s.buses := rfl
@[simp] theorem deliver_attached (r : Result) (s : State) : (deliver r s).attached = s.attached := rfl
@[simp] theorem deliver_faults (r : Result) (s : State) : (deliver r s).faults = s.faults := rfl
@[simp] theorem deliver_refused (r : Result) (s : State) : (deliver r s).refused = s.refused := rfl
@[simp] theorem deliver_schedule (r : Result) (s : State) : (deliver r s).schedule = s.schedule := rfl
@[simp] theorem deliver_actor (r : Result) (s : State) : (deliver r s).actor = s.actor := rfl
@[simp] theorem deliver_draws (r : Result) (s : State) : (deliver r s).draws = s.draws := rfl
@[simp] theorem deliver_trace (r : Result) (s : State) : (deliver r s).trace = .returned s.actor r :: s.trace := rfl

/-! ### postWrite -/

@[simp] theorem postWrite_win (b : Bus) (off : Nat) (w : Word) (s : State) : (postWrite b off w s).win = s.win := rfl
@[simp] theorem postWrite_dir (b : Bus) (off : Nat) (w : Word) (s : State) : (postWrite b off w s).dir = s.dir := rfl
@[simp] theorem postWrite_out (b : Bus) (off : Nat) (w : Word) (s : State) : (postWrite b off w s).out = s.out := rfl
@[simp] theorem postWrite_inl (b : Bus) (off : Nat) (w : Word) (s : State) : (postWrite b off w s).inl = s.inl := rfl
@[simp] theorem postWrite_peerLow (b : Bus) (off : Nat) (w : Word) (s : State) : (postWrite b off w s).peerLow = s.peerLow := rfl
@[simp] theorem postWrite_settled (b : Bus) (off : Nat) (w : Word) (s : State) : (postWrite b off w s).settled = s.settled := rfl
@[simp] theorem postWrite_agents (b : Bus) (off : Nat) (w : Word) (s : State) : (postWrite b off w s).agents = s.agents := rfl
@[simp] theorem postWrite_buses (b : Bus) (off : Nat) (w : Word) (s : State) : (postWrite b off w s).buses = s.buses := rfl
@[simp] theorem postWrite_attached (b : Bus) (off : Nat) (w : Word) (s : State) : (postWrite b off w s).attached = s.attached := rfl
@[simp] theorem postWrite_faults (b : Bus) (off : Nat) (w : Word) (s : State) : (postWrite b off w s).faults = s.faults := rfl
@[simp] theorem postWrite_refused (b : Bus) (off : Nat) (w : Word) (s : State) : (postWrite b off w s).refused = s.refused := rfl
@[simp] theorem postWrite_schedule (b : Bus) (off : Nat) (w : Word) (s : State) : (postWrite b off w s).schedule = s.schedule := rfl
@[simp] theorem postWrite_actor (b : Bus) (off : Nat) (w : Word) (s : State) : (postWrite b off w s).actor = s.actor := rfl
@[simp] theorem postWrite_draws (b : Bus) (off : Nat) (w : Word) (s : State) : (postWrite b off w s).draws = s.draws := rfl
@[simp] theorem postWrite_pend (b : Bus) (off : Nat) (w : Word) (s : State) : (postWrite b off w s).pend = s.pend.set b (s.pend.get b ++ [w]) := rfl
@[simp] theorem postWrite_trace (b : Bus) (off : Nat) (w : Word) (s : State) : (postWrite b off w s).trace = .write s.actor off w :: s.trace := rfl

/-! ### noteRead -/

@[simp] theorem noteRead_win (off : Nat) (v : Word) (s : State) : (noteRead off v s).win = s.win := rfl
@[simp] theorem noteRead_dir (off : Nat) (v : Word) (s : State) : (noteRead off v s).dir = s.dir := rfl
@[simp] theorem noteRead_out (off : Nat) (v : Word) (s : State) : (noteRead off v s).out = s.out := rfl
@[simp] theorem noteRead_inl (off : Nat) (v : Word) (s : State) : (noteRead off v s).inl = s.inl := rfl
@[simp] theorem noteRead_pend (off : Nat) (v : Word) (s : State) : (noteRead off v s).pend = s.pend := rfl
@[simp] theorem noteRead_peerLow (off : Nat) (v : Word) (s : State) : (noteRead off v s).peerLow = s.peerLow := rfl
@[simp] theorem noteRead_settled (off : Nat) (v : Word) (s : State) : (noteRead off v s).settled = s.settled := rfl
@[simp] theorem noteRead_agents (off : Nat) (v : Word) (s : State) : (noteRead off v s).agents = s.agents := rfl
@[simp] theorem noteRead_buses (off : Nat) (v : Word) (s : State) : (noteRead off v s).buses = s.buses := rfl
@[simp] theorem noteRead_attached (off : Nat) (v : Word) (s : State) : (noteRead off v s).attached = s.attached := rfl
@[simp] theorem noteRead_faults (off : Nat) (v : Word) (s : State) : (noteRead off v s).faults = s.faults := rfl
@[simp] theorem noteRead_refused (off : Nat) (v : Word) (s : State) : (noteRead off v s).refused = s.refused := rfl
@[simp] theorem noteRead_schedule (off : Nat) (v : Word) (s : State) : (noteRead off v s).schedule = s.schedule := rfl
@[simp] theorem noteRead_actor (off : Nat) (v : Word) (s : State) : (noteRead off v s).actor = s.actor := rfl
@[simp] theorem noteRead_draws (off : Nat) (v : Word) (s : State) : (noteRead off v s).draws = s.draws + 2 := rfl
@[simp] theorem noteRead_trace (off : Nat) (v : Word) (s : State) : (noteRead off v s).trace = .read s.actor off v :: s.trace := rfl

/-! ### lineUpdate -/

@[simp] theorem lineUpdate_win (s : State) : (lineUpdate s).win = s.win := rfl
@[simp] theorem lineUpdate_dir (s : State) : (lineUpdate s).dir = s.dir := rfl
@[simp] theorem lineUpdate_out (s : State) : (lineUpdate s).out = s.out := rfl
@[simp] theorem lineUpdate_inl (s : State) : (lineUpdate s).inl = s.inl := rfl
@[simp] theorem lineUpdate_pend (s : State) : (lineUpdate s).pend = s.pend := rfl
@[simp] theorem lineUpdate_peerLow (s : State) : (lineUpdate s).peerLow = s.peerLow := rfl
@[simp] theorem lineUpdate_agents (s : State) : (lineUpdate s).agents = s.agents := rfl
@[simp] theorem lineUpdate_buses (s : State) : (lineUpdate s).buses = s.buses := rfl
@[simp] theorem lineUpdate_attached (s : State) : (lineUpdate s).attached = s.attached := rfl
@[simp] theorem lineUpdate_faults (s : State) : (lineUpdate s).faults = s.faults := rfl
@[simp] theorem lineUpdate_refused (s : State) : (lineUpdate s).refused = s.refused := rfl
@[simp] theorem lineUpdate_schedule (s : State) : (lineUpdate s).schedule = s.schedule := rfl
@[simp] theorem lineUpdate_actor (s : State) : (lineUpdate s).actor = s.actor := rfl
@[simp] theorem lineUpdate_draws (s : State) : (lineUpdate s).draws = s.draws := rfl
@[simp] theorem lineUpdate_trace (s : State) : (lineUpdate s).trace = s.trace := rfl

/-! ### updateFields -/

@[simp] theorem updateFields_win (b : Bus) (w : Word) (s : State) : (updateFields b w s).win = s.win := rfl
@[simp] theorem updateFields_inl (b : Bus) (w : Word) (s : State) : (updateFields b w s).inl = s.inl := rfl
@[simp] theorem updateFields_pend (b : Bus) (w : Word) (s : State) : (updateFields b w s).pend = s.pend := rfl
@[simp] theorem updateFields_peerLow (b : Bus) (w : Word) (s : State) : (updateFields b w s).peerLow = s.peerLow := rfl
@[simp] theorem updateFields_settled (b : Bus) (w : Word) (s : State) : (updateFields b w s).settled = s.settled := rfl
@[simp] theorem updateFields_agents (b : Bus) (w : Word) (s : State) : (updateFields b w s).agents = s.agents := rfl
@[simp] theorem updateFields_buses (b : Bus) (w : Word) (s : State) : (updateFields b w s).buses = s.buses := rfl
@[simp] theorem updateFields_attached (b : Bus) (w : Word) (s : State) : (updateFields b w s).attached = s.attached := rfl
@[simp] theorem updateFields_faults (b : Bus) (w : Word) (s : State) : (updateFields b w s).faults = s.faults := rfl
@[simp] theorem updateFields_refused (b : Bus) (w : Word) (s : State) : (updateFields b w s).refused = s.refused := rfl
@[simp] theorem updateFields_schedule (b : Bus) (w : Word) (s : State) : (updateFields b w s).schedule = s.schedule := rfl
@[simp] theorem updateFields_actor (b : Bus) (w : Word) (s : State) : (updateFields b w s).actor = s.actor := rfl
@[simp] theorem updateFields_draws (b : Bus) (w : Word) (s : State) : (updateFields b w s).draws = s.draws := rfl
@[simp] theorem updateFields_trace (b : Bus) (w : Word) (s : State) : (updateFields b w s).trace = s.trace := rfl

/-! ### captureWith -/

@[simp] theorem captureWith_win (g : Bool) (b : Bus) (w : Word) (s : State) : (captureWith g b w s).win = s.win := rfl
@[simp] theorem captureWith_dir (g : Bool) (b : Bus) (w : Word) (s : State) : (captureWith g b w s).dir = s.dir := rfl
@[simp] theorem captureWith_out (g : Bool) (b : Bus) (w : Word) (s : State) : (captureWith g b w s).out = s.out := rfl
@[simp] theorem captureWith_pend (g : Bool) (b : Bus) (w : Word) (s : State) : (captureWith g b w s).pend = s.pend := rfl
@[simp] theorem captureWith_peerLow (g : Bool) (b : Bus) (w : Word) (s : State) : (captureWith g b w s).peerLow = s.peerLow := rfl
@[simp] theorem captureWith_settled (g : Bool) (b : Bus) (w : Word) (s : State) : (captureWith g b w s).settled = s.settled := rfl
@[simp] theorem captureWith_agents (g : Bool) (b : Bus) (w : Word) (s : State) : (captureWith g b w s).agents = s.agents := rfl
@[simp] theorem captureWith_buses (g : Bool) (b : Bus) (w : Word) (s : State) : (captureWith g b w s).buses = s.buses := rfl
@[simp] theorem captureWith_attached (g : Bool) (b : Bus) (w : Word) (s : State) : (captureWith g b w s).attached = s.attached := rfl
@[simp] theorem captureWith_faults (g : Bool) (b : Bus) (w : Word) (s : State) : (captureWith g b w s).faults = s.faults := rfl
@[simp] theorem captureWith_refused (g : Bool) (b : Bus) (w : Word) (s : State) : (captureWith g b w s).refused = s.refused := rfl
@[simp] theorem captureWith_schedule (g : Bool) (b : Bus) (w : Word) (s : State) : (captureWith g b w s).schedule = s.schedule := rfl
@[simp] theorem captureWith_actor (g : Bool) (b : Bus) (w : Word) (s : State) : (captureWith g b w s).actor = s.actor := rfl
@[simp] theorem captureWith_trace (g : Bool) (b : Bus) (w : Word) (s : State) : (captureWith g b w s).trace = s.trace := rfl

/-! ### performWith -/

@[simp] theorem performWith_win (g : Bool) (b : Bus) (w : Word) (s : State) : (performWith g b w s).win = s.win := rfl
@[simp] theorem performWith_pend (g : Bool) (b : Bus) (w : Word) (s : State) : (performWith g b w s).pend = s.pend := rfl
@[simp] theorem performWith_peerLow (g : Bool) (b : Bus) (w : Word) (s : State) : (performWith g b w s).peerLow = s.peerLow := rfl
@[simp] theorem performWith_agents (g : Bool) (b : Bus) (w : Word) (s : State) : (performWith g b w s).agents = s.agents := rfl
@[simp] theorem performWith_buses (g : Bool) (b : Bus) (w : Word) (s : State) : (performWith g b w s).buses = s.buses := rfl
@[simp] theorem performWith_attached (g : Bool) (b : Bus) (w : Word) (s : State) : (performWith g b w s).attached = s.attached := rfl
@[simp] theorem performWith_faults (g : Bool) (b : Bus) (w : Word) (s : State) : (performWith g b w s).faults = s.faults := rfl
@[simp] theorem performWith_refused (g : Bool) (b : Bus) (w : Word) (s : State) : (performWith g b w s).refused = s.refused := rfl
@[simp] theorem performWith_schedule (g : Bool) (b : Bus) (w : Word) (s : State) : (performWith g b w s).schedule = s.schedule := rfl
@[simp] theorem performWith_actor (g : Bool) (b : Bus) (w : Word) (s : State) : (performWith g b w s).actor = s.actor := rfl
@[simp] theorem performWith_trace (g : Bool) (b : Bus) (w : Word) (s : State) : (performWith g b w s).trace = s.trace := rfl
@[simp] theorem performWith_draws (g : Bool) (b : Bus) (w : Word) (s : State) : (performWith g b w s).draws = s.draws + 4 := rfl

/-! ### performWrite -/

@[simp] theorem performWrite_win (b : Bus) (w : Word) (s : State) : (performWrite b w s).win = s.win := rfl
@[simp] theorem performWrite_pend (b : Bus) (w : Word) (s : State) : (performWrite b w s).pend = s.pend := rfl
@[simp] theorem performWrite_peerLow (b : Bus) (w : Word) (s : State) : (performWrite b w s).peerLow = s.peerLow := rfl
@[simp] theorem performWrite_agents (b : Bus) (w : Word) (s : State) : (performWrite b w s).agents = s.agents := rfl
@[simp] theorem performWrite_buses (b : Bus) (w : Word) (s : State) : (performWrite b w s).buses = s.buses := rfl
@[simp] theorem performWrite_attached (b : Bus) (w : Word) (s : State) : (performWrite b w s).attached = s.attached := rfl
@[simp] theorem performWrite_faults (b : Bus) (w : Word) (s : State) : (performWrite b w s).faults = s.faults := rfl
@[simp] theorem performWrite_refused (b : Bus) (w : Word) (s : State) : (performWrite b w s).refused = s.refused := rfl
@[simp] theorem performWrite_schedule (b : Bus) (w : Word) (s : State) : (performWrite b w s).schedule = s.schedule := rfl
@[simp] theorem performWrite_actor (b : Bus) (w : Word) (s : State) : (performWrite b w s).actor = s.actor := rfl
@[simp] theorem performWrite_trace (b : Bus) (w : Word) (s : State) : (performWrite b w s).trace = s.trace := rfl
@[simp] theorem performWrite_draws (b : Bus) (w : Word) (s : State) : (performWrite b w s).draws = s.draws + 4 := rfl

end Sys2Proof.Machine
end

