-- ==== Sys2Proof/Laws/Agents.lean ====
section
/-! SUPPORT. The list of agents: looking up after an insertion, and its canonical form. -/

namespace Sys2Proof.Machine

theorem agentKey_injective {a a' : AgentId} (h : agentKey a = agentKey a') : a = a' := by
  cases a <;> cases a' <;> simp_all [agentKey]

theorem lookup_insert_ne {a a' : AgentId} (r : AgentRec) (l : List (AgentId × AgentRec)) (h : a' ≠ a) :
    lookupAgent a' (insertAgent a r l) = lookupAgent a' l := by
  induction l with
  | nil => by_cases hr : r = .atRest <;> simp [insertAgent, lookupAgent, hr, Ne.symm h]
  | cons x l ih =>
    obtain ⟨k, q⟩ := x
    simp only [insertAgent]
    by_cases hk : k = a
    · subst hk
      by_cases hr : r = .atRest <;> simp [lookupAgent, hr, Ne.symm h]
    · by_cases hlt : agentKey a < agentKey k
      · by_cases hr : r = .atRest <;> simp [lookupAgent, hk, hlt, hr, Ne.symm h]
      · simp [lookupAgent, hk, hlt, ih]

/-- An agent that is not at rest is found as it was put, in any list. -/
theorem lookup_insert_self_of_ne {a : AgentId} {r : AgentRec} (l : List (AgentId × AgentRec)) (hr : r ≠ .atRest) :
    lookupAgent a (insertAgent a r l) = r := by
  induction l with
  | nil => simp [insertAgent, lookupAgent, hr]
  | cons x l ih =>
    obtain ⟨k, q⟩ := x
    simp only [insertAgent]
    by_cases hk : k = a
    · simp [lookupAgent, hk, hr]
    · by_cases hlt : agentKey a < agentKey k
      · simp [lookupAgent, hk, hlt, hr]
      · simp [lookupAgent, hk, hlt, ih]

theorem agentsWf_cons {x : AgentId × AgentRec} {l : List (AgentId × AgentRec)} :
    agentsWf (x :: l) = true ↔
      x.2 ≠ .atRest ∧ (∀ y ∈ l, agentKey x.1 < agentKey y.1) ∧ agentsWf l = true := by
  simp only [agentsWf, List.pairwise_cons, List.all_cons, Bool.and_eq_true, decide_eq_true_eq]
  tauto

@[simp] theorem agentsWf_nil : agentsWf [] = true := rfl

theorem lookup_of_above {a : AgentId} {l : List (AgentId × AgentRec)}
    (h : ∀ y ∈ l, agentKey a < agentKey y.1) : lookupAgent a l = .atRest := by
  induction l with
  | nil => rfl
  | cons x l ih =>
    have hx : x.1 ≠ a := by
      rintro rfl
      exact Nat.lt_irrefl _ (h x List.mem_cons_self)
    simp [lookupAgent, hx, ih fun y hy => h y (List.mem_cons_of_mem _ hy)]

/-- In a canonical list every agent is found as it was put. -/
theorem lookup_insert_self {a : AgentId} (r : AgentRec) {l : List (AgentId × AgentRec)} (h : agentsWf l = true) :
    lookupAgent a (insertAgent a r l) = r := by
  by_cases hr : r = .atRest
  · subst hr
    induction l with
    | nil => simp [insertAgent, lookupAgent]
    | cons x l ih =>
      obtain ⟨k, q⟩ := x
      obtain ⟨-, hlt, hwf⟩ := agentsWf_cons.1 h
      simp only [insertAgent]
      by_cases hk : k = a
      · subst hk
        simpa using lookup_of_above hlt
      · by_cases hka : agentKey a < agentKey k
        · have := lookup_of_above (l := l) fun y hy => Nat.lt_trans hka (hlt y hy)
          simp [lookupAgent, hk, hka, this]
        · simp [lookupAgent, hk, hka, ih hwf]
  · exact lookup_insert_self_of_ne l hr

theorem lookup_insert {a a' : AgentId} (r : AgentRec) {l : List (AgentId × AgentRec)} (h : agentsWf l = true) :
    lookupAgent a' (insertAgent a r l) = if a' = a then r else lookupAgent a' l := by
  split <;> rename_i he
  · subst he; exact lookup_insert_self r h
  · exact lookup_insert_ne r l he

theorem mem_insertAgent {a : AgentId} {r : AgentRec} {l : List (AgentId × AgentRec)} {y : AgentId × AgentRec}
    (h : y ∈ insertAgent a r l) : y = (a, r) ∨ y ∈ l := by
  induction l with
  | nil => by_cases hr : r = .atRest <;> simp_all [insertAgent]
  | cons x l ih =>
    obtain ⟨k, q⟩ := x
    simp only [insertAgent] at h
    split at h
    · split at h
      · exact .inr (List.mem_cons_of_mem _ h)
      · rcases List.mem_cons.1 h with h | h
        · exact .inl h
        · exact .inr (List.mem_cons_of_mem _ h)
    · split at h
      · split at h <;> simp_all
      · simp only [List.mem_cons] at h ⊢
        rcases h with h | h
        · exact .inr (.inl h)
        · rcases ih h with h | h <;> simp [h]

/-- The canonical form is kept. -/
theorem insertAgent_wf (a : AgentId) (r : AgentRec) {l : List (AgentId × AgentRec)} (h : agentsWf l = true) :
    agentsWf (insertAgent a r l) = true := by
  induction l with
  | nil =>
    by_cases hr : r = .atRest
    · simp [insertAgent, hr]
    · simp [insertAgent, hr, agentsWf]
  | cons x l ih =>
    obtain ⟨k, q⟩ := x
    obtain ⟨hq, hlt, hwf⟩ := agentsWf_cons.1 h
    simp only [insertAgent]
    by_cases hk : k = a
    · subst hk
      by_cases hr : r = .atRest
      · simpa [hr] using hwf
      · simpa [hr] using (agentsWf_cons (x := (k, r))).2 ⟨hr, hlt, hwf⟩
    · by_cases hka : agentKey a < agentKey k
      · by_cases hr : r = .atRest
        · simpa [hk, hka, hr] using h
        · simp only [hk, hka, hr, if_true, if_false]
          refine agentsWf_cons.2 ⟨hr, ?_, h⟩
          intro y hy
          rcases List.mem_cons.1 hy with rfl | hy
          · exact hka
          · exact Nat.lt_trans hka (hlt y hy)
      · simp only [hk, hka, if_false]
        refine agentsWf_cons.2 ⟨hq, ?_, ih hwf⟩
        intro y hy
        rcases mem_insertAgent hy with rfl | hy
        · exact Nat.lt_of_le_of_ne (Nat.not_lt.1 hka) fun he => hk (agentKey_injective he)
        · exact hlt y hy

/-- Putting an agent's own record back changes nothing. -/
theorem insertAgent_lookup {a : AgentId} {l : List (AgentId × AgentRec)} (h : agentsWf l = true) :
    insertAgent a (lookupAgent a l) l = l := by
  induction l with
  | nil => simp [insertAgent, lookupAgent]
  | cons x l ih =>
    obtain ⟨k, q⟩ := x
    obtain ⟨hq, hlt, hwf⟩ := agentsWf_cons.1 h
    simp only [insertAgent, lookupAgent]
    by_cases hk : k = a
    · subst hk
      simp only [if_true]
      rw [if_neg (by simpa using hq)]
    · by_cases hka : agentKey a < agentKey k
      · have := lookup_of_above (l := l) fun y hy => Nat.lt_trans hka (hlt y hy)
        simp [hk, hka, this]
      · simp [hk, hka, ih hwf]

/-- The listed pairs of a canonical list are the records found. -/
theorem mem_iff_lookup {a : AgentId} {r : AgentRec} {l : List (AgentId × AgentRec)} (h : agentsWf l = true) :
    (a, r) ∈ l ↔ lookupAgent a l = r ∧ r ≠ .atRest := by
  induction l with
  | nil => simp [lookupAgent, eq_comm]
  | cons x l ih =>
    obtain ⟨k, q⟩ := x
    obtain ⟨hq, hlt, hwf⟩ := agentsWf_cons.1 h
    simp only [List.mem_cons, lookupAgent, Prod.mk.injEq]
    by_cases hk : k = a
    · subst hk
      have hn : ∀ r', (k, r') ∉ l := fun r' hr => Nat.lt_irrefl _ (hlt (k, r') hr)
      simp only [true_and, hn, or_false, if_true]
      constructor
      · rintro rfl; exact ⟨rfl, hq⟩
      · rintro ⟨rfl, -⟩; rfl
    · simp [hk, Ne.symm hk, ih hwf]

/-! ### The acting agent -/

@[simp] theorem agent_mk_actor (s : State) (a a' : AgentId) : ({ s with actor := a } : State).agent a' = s.agent a' := rfl

theorem setAgent_agent_ne (s : State) {a a' : AgentId} (r : AgentRec) (h : a' ≠ a) :
    (s.setAgent a r).agent a' = s.agent a' := lookup_insert_ne r s.agents h

theorem setAgent_agent_self (s : State) (a : AgentId) (r : AgentRec) (h : agentsWf s.agents = true) :
    (s.setAgent a r).agent a = r := lookup_insert_self r h

theorem busyAgents_mem {s : State} {a : AgentId} (h : agentsWf s.agents = true) :
    a ∈ s.busyAgents ↔ (s.agent a).seq.isBusy = true := by
  simp only [State.busyAgents, List.mem_map, List.mem_filter, State.agent]
  constructor
  · rintro ⟨⟨k, r⟩, ⟨hm, hb⟩, rfl⟩
    rw [((mem_iff_lookup h).1 hm).1]
    exact hb
  · intro hb
    refine ⟨(a, lookupAgent a s.agents), ⟨(mem_iff_lookup h).2 ⟨rfl, ?_⟩, hb⟩, rfl⟩
    intro he
    rw [he] at hb
    exact absurd hb (by decide)

/-! ### Whose turn an `ATTACH` takes -/

theorem betweenPrims_iff {r : AgentRec} :
    r.betweenPrims = true ↔ r.seq = .idle ∧ (∃ st, r.task = .attach st) ∧ r.stopped = false := by
  unfold AgentRec.betweenPrims
  cases r.seq <;> cases r.task <;> simp

theorem attachTurn_some {s : State} {a : AgentId} (ha : s.attachTurn = some a) : (s.agent a).betweenPrims = true := by
  obtain ⟨x, hf, rfl⟩ := Option.map_eq_some_iff.1 ha
  exact List.find?_some (p := fun x : AgentId × AgentRec => (s.agent x.1).betweenPrims) hf

theorem lookup_of_not_mem {a : AgentId} {l : List (AgentId × AgentRec)} (h : ∀ x ∈ l, x.1 ≠ a) :
    lookupAgent a l = .atRest := by
  induction l with
  | nil => rfl
  | cons x l ih => simp [lookupAgent, h x List.mem_cons_self, ih fun y hy => h y (List.mem_cons_of_mem _ hy)]

theorem attachTurn_none {s : State} (hn : s.attachTurn = none) (a : AgentId) : (s.agent a).betweenPrims = false := by
  have hf := List.find?_eq_none.1 (Option.map_eq_none_iff.1 hn)
  by_cases h : ∃ x ∈ s.agents, x.1 = a
  · obtain ⟨x, hx, rfl⟩ := h
    simpa using hf x hx
  · rw [State.agent, lookup_of_not_mem fun x hx he => h ⟨x, hx, he⟩]
    rfl

end Sys2Proof.Machine
end

