-- ==== Sys2Proof/Laws/Containers.lean ====
section
/-! SUPPORT. Reading the containers over buses and lines after an update. -/

namespace Sys2Proof.Machine

variable {α : Type}

@[simp] theorem PerBus.get_set_self (m : PerBus α) (b : Bus) (x : α) : (m.set b x).get b = x := by
  cases b <;> rfl

@[simp] theorem PerBus.get_set_ne (m : PerBus α) {b b' : Bus} (x : α) (h : b' ≠ b) : (m.set b x).get b' = m.get b' := by
  cases b <;> cases b' <;> first | rfl | exact absurd rfl h

theorem PerBus.get_set (m : PerBus α) (b b' : Bus) (x : α) :
    (m.set b x).get b' = if b' = b then x else m.get b' := by
  cases b <;> cases b' <;> rfl

theorem PerBus.ext_get {m n : PerBus α} (h : ∀ b, m.get b = n.get b) : m = n := by
  cases m; cases n; simp only [PerBus.mk.injEq]; exact ⟨h .i2c, h .ddc⟩

@[simp] theorem PerBus.set_get (m : PerBus α) (b : Bus) : m.set b (m.get b) = m := by
  cases b <;> rfl

@[simp] theorem PerLine.get_set_self (m : PerLine α) (b : Bus) (l : Line) (x : α) : (m.set b l x).get b l = x := by
  cases b <;> cases l <;> rfl

theorem PerLine.get_set_ne (m : PerLine α) {b b' : Bus} {l l' : Line} (x : α) (h : ¬(b' = b ∧ l' = l)) :
    (m.set b l x).get b' l' = m.get b' l' := by
  cases b <;> cases b' <;> cases l <;> cases l' <;> first | rfl | exact absurd ⟨rfl, rfl⟩ h

@[simp] theorem PerLine.set_get (m : PerLine α) (b : Bus) (l : Line) : m.set b l (m.get b l) = m := by
  cases b <;> cases l <;> rfl

@[simp] theorem PerLine.get_ofFn (f : Bus → Line → α) (b : Bus) (l : Line) : (PerLine.ofFn f).get b l = f b l := by
  cases b <;> cases l <;> rfl

theorem PerLine.ext_get {m n : PerLine α} (h : ∀ b l, m.get b l = n.get b l) : m = n := by
  cases m; cases n; simp only [PerLine.mk.injEq]; exact ⟨h .i2c .clk, h .i2c .dat, h .ddc .clk, h .ddc .dat⟩

end Sys2Proof.Machine
end

