-- ==== Sys2Proof/Laws/Words.lean ====
section
/-! SUPPORT. The bits of words: the ACC packing, the masks as bit numbers, and the fields of the named words. -/

namespace Sys2Proof

open Machine

/-! ### The ACC packing -/

theorem accWord_getLsbD (k : Bool) (off : Nat) (v : Word) (i : Nat) :
    (accWord k off v).getLsbD i =
      if i < 32 then v.getLsbD i
      else if i < 44 then (BitVec.ofNat 12 off).getLsbD (i - 32)
      else if i = 44 then k else false := by
  unfold accWord
  erw [BitVec.getLsbD_append, BitVec.getLsbD_append, BitVec.getLsbD_append]
  by_cases h1 : i < 32
  · have e : i < 45 := by omega
    have e' : i < 44 := by omega
    simp [h1, e, e']
  · by_cases h2 : i < 44
    · have e : i < 45 := by omega
      have e' : i - 32 < 12 := by omega
      simp [h1, h2, e, e']
    · by_cases h3 : i = 44
      · subst h3; simp
      · have e : ¬ i < 45 := by omega
        simp [h1, h2, h3, e]

@[simp] theorem accWord_value (k : Bool) (off : Nat) (v : Word) : (accWord k off v).extractLsb' 0 32 = v := by
  apply BitVec.eq_of_getLsbD_eq
  intro i hi
  simp [accWord_getLsbD, hi]

@[simp] theorem accWord_off (k : Bool) (off : Nat) (v : Word) :
    (accWord k off v).extractLsb' 32 12 = BitVec.ofNat 12 off := by
  apply BitVec.eq_of_getLsbD_eq
  intro i hi
  have h1 : ¬ 32 + i < 32 := by omega
  have h2 : 32 + i < 44 := by omega
  rw [BitVec.getLsbD_extractLsb', accWord_getLsbD, if_neg h1, if_pos h2]
  simp [hi]

@[simp] theorem accWord_kind (k : Bool) (off : Nat) (v : Word) :
    (accWord k off v).extractLsb' 44 1 = BitVec.ofBool k := by
  apply BitVec.eq_of_getLsbD_eq
  intro i hi
  obtain rfl : i = 0 := by omega
  rw [BitVec.getLsbD_extractLsb', accWord_getLsbD]
  simp

@[simp] theorem accWord_top (k : Bool) (off : Nat) (v : Word) : (accWord k off v).extractLsb' 45 3 = 0#3 := by
  apply BitVec.eq_of_getLsbD_eq
  intro i hi
  have h1 : ¬ 45 + i < 32 := by omega
  have h2 : ¬ 45 + i < 44 := by omega
  have h3 : ¬ 45 + i = 44 := by omega
  rw [BitVec.getLsbD_extractLsb', accWord_getLsbD, if_neg h1, if_neg h2, if_neg h3]
  simp

/-- Decoding an encoded access. -/
theorem decode_accWord (k : Bool) (off : Nat) (v : Word) (h : off < 0x1000) (hv : k = false → v = 0) :
    decode (accWord k off v) = .ok (if k then nameWrite off v else .rd32 off) := by
  have ho : off % 2 ^ 12 = off := Nat.mod_eq_of_lt h
  have ho' : (BitVec.ofNat 12 off).toNat = off := by rw [BitVec.toNat_ofNat]; exact ho
  cases k
  · simp only [decode, accWord_top, accWord_kind, accWord_value, accWord_off, ho', hv rfl]
    simp
  · simp only [decode, accWord_top, accWord_kind, accWord_value, accWord_off, ho']
    simp

/-! ### Masks as bit numbers -/

theorem bitSet_twoPow (w : Word) (i : Nat) (hi : i < 32) : bitSet w (BitVec.twoPow 32 i) = w.getLsbD i := by
  unfold bitSet
  rw [BitVec.and_twoPow]
  split <;> rename_i h
  · have : (BitVec.twoPow 32 i) ≠ 0#32 := by
      intro h0
      have := congrArg (·.getLsbD i) h0
      simp [hi] at this
    simp [h, this]
  · simp [h]

@[simp] theorem bitSet_dm (w : Word) (l : Line) : bitSet w (Config.masks l).dm = w.getLsbD (lineBase l) := by
  cases l
  · exact bitSet_twoPow w 0 (by decide)
  · exact bitSet_twoPow w 8 (by decide)

@[simp] theorem bitSet_d (w : Word) (l : Line) : bitSet w (Config.masks l).d = w.getLsbD (lineBase l + 1) := by
  cases l
  · exact bitSet_twoPow w 1 (by decide)
  · exact bitSet_twoPow w 9 (by decide)

@[simp] theorem bitSet_vm (w : Word) (l : Line) : bitSet w (Config.masks l).vm = w.getLsbD (lineBase l + 2) := by
  cases l
  · exact bitSet_twoPow w 2 (by decide)
  · exact bitSet_twoPow w 10 (by decide)

@[simp] theorem bitSet_v (w : Word) (l : Line) : bitSet w (Config.masks l).v = w.getLsbD (lineBase l + 3) := by
  cases l
  · exact bitSet_twoPow w 3 (by decide)
  · exact bitSet_twoPow w 11 (by decide)

@[simp] theorem bitSet_i (w : Word) (l : Line) : bitSet w (Config.masks l).i = w.getLsbD (lineBase l + 4) := by
  cases l
  · exact bitSet_twoPow w 4 (by decide)
  · exact bitSet_twoPow w 12 (by decide)

@[simp] theorem lineFields_dirEnable (w : Word) (l : Line) : (lineFields w l).dirEnable = w.getLsbD (lineBase l) :=
  bitSet_dm w l
@[simp] theorem lineFields_dirOut (w : Word) (l : Line) : (lineFields w l).dirOut = w.getLsbD (lineBase l + 1) :=
  bitSet_d w l
@[simp] theorem lineFields_valEnable (w : Word) (l : Line) : (lineFields w l).valEnable = w.getLsbD (lineBase l + 2) :=
  bitSet_vm w l
@[simp] theorem lineFields_valHigh (w : Word) (l : Line) : (lineFields w l).valHigh = w.getLsbD (lineBase l + 3) :=
  bitSet_v w l

/-! ### The named words -/

theorem lineFields_setWord (l : Line) (v : Bool) : lineFields (setWord l v) l = ⟨true, true, true, v⟩ := by
  cases l <;> cases v <;> decide

theorem lineFields_relWord (l : Line) : lineFields (relWord l) l = ⟨true, false, false, false⟩ := by
  cases l <;> decide

theorem lineFields_latchWord (l : Line) : lineFields latchWord l = ⟨false, false, false, false⟩ := by
  cases l <;> decide

theorem touches_setWord_ne {l l' : Line} (v : Bool) (h : l' ≠ l) : touches l' (setWord l v) = false := by
  cases l <;> cases l' <;> cases v <;> first | exact absurd rfl h | decide

theorem touches_relWord_ne {l l' : Line} (h : l' ≠ l) : touches l' (relWord l) = false := by
  cases l <;> cases l' <;> first | exact absurd rfl h | decide

@[simp] theorem touches_latchWord (l : Line) : touches l latchWord = false := by
  cases l <;> decide

@[simp] theorem touches_setWord (l : Line) (v : Bool) : touches l (setWord l v) = true := by
  cases l <;> cases v <;> decide

@[simp] theorem touches_relWord (l : Line) : touches l (relWord l) = true := by
  cases l <;> decide

@[simp] theorem setWord_legal (l : Line) (v : Bool) : bitSet (setWord l v) Config.reservedMask = false := by
  cases l <;> cases v <;> decide

@[simp] theorem relWord_legal (l : Line) : bitSet (relWord l) Config.reservedMask = false := by
  cases l <;> decide

@[simp] theorem latchWord_legal : bitSet latchWord Config.reservedMask = false := by decide

theorem ctlWord_legal (c d : LineCtl) : bitSet (ctlWord c d) Config.reservedMask = false := by
  obtain ⟨a1, a2, a3, a4⟩ := c
  obtain ⟨b1, b2, b3, b4⟩ := d
  cases a1 <;> cases a2 <;> cases a3 <;> cases a4 <;> cases b1 <;> cases b2 <;> cases b3 <;> cases b4 <;> decide

theorem ite_twoPow_getLsbD (c : Bool) (k i : Nat) (hi : i < 32) :
    (if c then BitVec.twoPow 32 k else 0#32).getLsbD i = (c && decide (i = k)) := by
  cases c
  · simp
  · simp [hi, eq_comm]

theorem lineWord_getLsbD (l : Line) (c : LineCtl) (i : Nat) (hi : i < 32) :
    (lineWord l c).getLsbD i =
      ((c.dirEnable && decide (i = lineBase l)) || (c.dirOut && decide (i = lineBase l + 1)) ||
       (c.valEnable && decide (i = lineBase l + 2)) || (c.valHigh && decide (i = lineBase l + 3))) := by
  have h : lineWord l c =
      (if c.dirEnable then BitVec.twoPow 32 (lineBase l) else 0#32) |||
      (if c.dirOut then BitVec.twoPow 32 (lineBase l + 1) else 0#32) |||
      (if c.valEnable then BitVec.twoPow 32 (lineBase l + 2) else 0#32) |||
      (if c.valHigh then BitVec.twoPow 32 (lineBase l + 3) else 0#32) := by
    cases l <;> rfl
  rw [h]
  simp only [BitVec.getLsbD_or, ite_twoPow_getLsbD _ _ _ hi]

/-- The bits outside the writable fields. -/
theorem reservedMask_getLsbD (i : Nat) (hi : i < 32) :
    Config.reservedMask.getLsbD i = !decide (i < 4 ∨ (8 ≤ i ∧ i < 12)) := by
  revert hi i
  decide

/-- A word with no reserved bit is the control word of its fields. -/
theorem ctlWord_lineFields (w : Word) (h : bitSet w Config.reservedMask = false) :
    ctlWord (lineFields w .clk) (lineFields w .dat) = w := by
  have h0 : w &&& Config.reservedMask = 0 := by simpa [bitSet] using h
  apply BitVec.eq_of_getLsbD_eq
  intro i hi
  have hb : (w &&& Config.reservedMask).getLsbD i = false := by rw [h0]; simp
  rw [BitVec.getLsbD_and, reservedMask_getLsbD i hi] at hb
  rw [ctlWord, BitVec.getLsbD_or, lineWord_getLsbD _ _ _ hi, lineWord_getLsbD _ _ _ hi]
  simp only [lineFields_dirEnable, lineFields_dirOut, lineFields_valEnable, lineFields_valHigh, lineBase]
  by_cases hr : i < 4 ∨ (8 ≤ i ∧ i < 12)
  · have hc : i = 0 ∨ i = 1 ∨ i = 2 ∨ i = 3 ∨ i = 8 ∨ i = 9 ∨ i = 10 ∨ i = 11 := by omega
    rcases hc with rfl | rfl | rfl | rfl | rfl | rfl | rfl | rfl <;> simp
  · have hw : w.getLsbD i = false := by simpa [hr] using hb
    rw [hw]
    have hn : i ≠ 0 ∧ i ≠ 1 ∧ i ≠ 2 ∧ i ≠ 3 ∧ i ≠ 8 ∧ i ≠ 9 ∧ i ≠ 10 ∧ i ≠ 11 := by omega
    simp [hn]

/-! ### Offsets -/

@[simp] theorem busAt_off (b : Bus) : busAt (Config.off b) = some b := by cases b <;> decide

theorem busAt_eq_some {off : Nat} {b : Bus} (h : busAt off = some b) : off = Config.off b := by
  unfold busAt at h
  split at h
  · cases h; assumption
  · split at h
    · cases h; assumption
    · cases h

theorem off_injective {b b' : Bus} (h : Config.off b = Config.off b') : b = b' := by
  cases b <;> cases b' <;> first | rfl | exact absurd h (by decide)

theorem off_lt (b : Bus) : Config.off b < 0x1000 := by cases b <;> decide

/-! ### Names (30_encoding.md R106, R109) -/

@[simp] theorem nameWord_setClk1 (b : Bus) : nameWord b (setWord .clk true) = .setClk1 b := rfl
@[simp] theorem nameWord_setClk0 (b : Bus) : nameWord b (setWord .clk false) = .setClk0 b := rfl
@[simp] theorem nameWord_setDat1 (b : Bus) : nameWord b (setWord .dat true) = .setDat1 b := rfl
@[simp] theorem nameWord_setDat0 (b : Bus) : nameWord b (setWord .dat false) = .setDat0 b := rfl
@[simp] theorem nameWord_relClk (b : Bus) : nameWord b (relWord .clk) = .relClk b := rfl
@[simp] theorem nameWord_relDat (b : Bus) : nameWord b (relWord .dat) = .relDat b := rfl
@[simp] theorem nameWord_latch (b : Bus) : nameWord b latchWord = .latch b := rfl

theorem nameWrite_off (b : Bus) (w : Word) (h : bitSet w Config.reservedMask = false) :
    nameWrite (Config.off b) w = nameWord b w := by
  simp [nameWrite, h]

/-- What a name the decoder gives stands for. -/
theorem nameWord_cases (b : Bus) (w : Word) :
    (w = setWord .clk true ∧ nameWord b w = .setClk1 b) ∨ (w = setWord .clk false ∧ nameWord b w = .setClk0 b) ∨
    (w = setWord .dat true ∧ nameWord b w = .setDat1 b) ∨ (w = setWord .dat false ∧ nameWord b w = .setDat0 b) ∨
    (w = relWord .clk ∧ nameWord b w = .relClk b) ∨ (w = relWord .dat ∧ nameWord b w = .relDat b) ∨
    (w = latchWord ∧ nameWord b w = .latch b) ∨
    nameWord b w = .wr32Ctl b (lineFields w .clk) (lineFields w .dat) := by
  unfold nameWord
  split_ifs <;> simp_all

end Sys2Proof
end

