-- ==== Sys2Proof/Laws/Lines.lean ====
section
/-! SUPPORT. What performing a word, a line update and the steps of the environment leave in each latch and on each
line. -/

namespace Sys2Proof.Machine

/-! ### Settling -/

@[simp] theorem settledOf_settledOf (d : Drive) (p o : Bool) : settledOf d p (settledOf d p o) = settledOf d p o := by
  cases d <;> cases p <;> cases o <;> rfl

theorem lineUpdate_settled_get (s : State) (b : Bus) (l : Line) :
    (lineUpdate s).settled.get b l = settledOf (s.drive b l) (s.peerLow.get b l) (s.settled.get b l) := by
  simp [lineUpdate]

/-- A line at level 1 has no peer on it, and is driven high or is released and settled. -/
theorem levelOf_eq_one {d : Drive} {p o : Bool} :
    levelOf d p o = .one ↔ p = false ∧ (d = .high ∨ (d = .released ∧ o = true)) := by
  cases d <;> cases p <;> cases o <;> decide

theorem levelOf_eq_zero {d : Drive} {p o : Bool} :
    levelOf d p o = .zero ↔ d = .low ∨ (d = .released ∧ p = true) := by
  cases d <;> cases p <;> cases o <;> decide

/-! ### Performing a word -/

theorem performWith_dir_get (g : Bool) (b : Bus) (w : Word) (s : State) (b' : Bus) (l : Line) :
    (performWith g b w s).dir.get b' l =
      if b' = b ∧ w.getLsbD (lineBase l) = true
      then some (if w.getLsbD (lineBase l + 1) then .output else .input) else s.dir.get b' l := by
  simp [performWith, captureWith, lineUpdate, updateFields]

theorem performWith_out_get (g : Bool) (b : Bus) (w : Word) (s : State) (b' : Bus) (l : Line) :
    (performWith g b w s).out.get b' l =
      if b' = b ∧ w.getLsbD (lineBase l + 2) = true
      then some (w.getLsbD (lineBase l + 3)) else s.out.get b' l := by
  simp [performWith, captureWith, lineUpdate, updateFields]

theorem performWith_settled_get (g : Bool) (b : Bus) (w : Word) (s : State) (b' : Bus) (l : Line) :
    (performWith g b w s).settled.get b' l =
      settledOf ((performWith g b w s).drive b' l) (s.peerLow.get b' l) (s.settled.get b' l) :=
  lineUpdate_settled_get (updateFields b w s) b' l

theorem performWith_inl_get (g : Bool) (b : Bus) (w : Word) (s : State) (l : Line) :
    (performWith g b w s).inl.get b l =
      captured g w ((performWith g b w s).drive b l) ((performWith g b w s).level b l)
        (Config.freeDraw (s.draws + 2 * lineIndex l)) (Config.freeDraw (s.draws + 2 * lineIndex l + 1))
        (s.inl.get b l) := by
  simp only [performWith, captureWith, PerLine.get_ofFn, if_true]
  rfl

theorem performWith_inl_get_ne (g : Bool) {b b' : Bus} (w : Word) (s : State) (l : Line) (h : b' ≠ b) :
    (performWith g b w s).inl.get b' l = s.inl.get b' l := by
  simp [performWith, captureWith, lineUpdate, updateFields, h]

/-- A word that sets no enable bit of a line leaves its drive. -/
theorem performWith_drive_of_not_touches (g : Bool) (b : Bus) {w : Word} (s : State) {l : Line}
    (h : touches l w = false) (b' : Bus) : (performWith g b w s).drive b' l = s.drive b' l := by
  simp only [touches, lineFields_dirEnable, lineFields_valEnable, Bool.or_eq_false_iff] at h
  simp [State.drive, performWith_dir_get, performWith_out_get, h]

/-- The set word drives its line. -/
theorem performWith_drive_setWord (g : Bool) (b : Bus) (s : State) (l : Line) (v : Bool) :
    (performWith g b (setWord l v) s).drive b l = if v then .high else .low := by
  simp only [State.drive, performWith_dir_get, performWith_out_get]
  cases l <;> cases v <;> rfl

/-- The release word releases its line. -/
theorem performWith_drive_relWord (g : Bool) (b : Bus) (s : State) (l : Line) :
    (performWith g b (relWord l) s).drive b l = .released := by
  simp only [State.drive, performWith_dir_get, performWith_out_get]
  cases l <;> rfl

/-! ### The posting path -/

theorem postStep_cases (b : Bus) (s : State) :
    (s.pend.get b = [] ∧ postStep b s = s) ∨
    ∃ w rest, s.pend.get b = w :: rest ∧
      postStep b s =
        performWrite b w { s with pend := s.pend.set b rest, trace := .perform (Config.off b) w :: s.trace } := by
  unfold postStep
  split
  · exact .inl ⟨by assumption, rfl⟩
  · exact .inr ⟨_, _, by assumption, rfl⟩

@[simp] theorem postStep_win (b : Bus) (s : State) : (postStep b s).win = s.win := by unfold postStep; split <;> rfl
@[simp] theorem postStep_peerLow (b : Bus) (s : State) : (postStep b s).peerLow = s.peerLow := by unfold postStep; split <;> rfl
@[simp] theorem postStep_agents (b : Bus) (s : State) : (postStep b s).agents = s.agents := by unfold postStep; split <;> rfl
@[simp] theorem postStep_buses (b : Bus) (s : State) : (postStep b s).buses = s.buses := by unfold postStep; split <;> rfl
@[simp] theorem postStep_attached (b : Bus) (s : State) : (postStep b s).attached = s.attached := by unfold postStep; split <;> rfl
@[simp] theorem postStep_faults (b : Bus) (s : State) : (postStep b s).faults = s.faults := by unfold postStep; split <;> rfl
@[simp] theorem postStep_refused (b : Bus) (s : State) : (postStep b s).refused = s.refused := by unfold postStep; split <;> rfl
@[simp] theorem postStep_schedule (b : Bus) (s : State) : (postStep b s).schedule = s.schedule := by unfold postStep; split <;> rfl
@[simp] theorem postStep_actor (b : Bus) (s : State) : (postStep b s).actor = s.actor := by unfold postStep; split <;> rfl

theorem postStep_pend (b : Bus) (s : State) : (postStep b s).pend = s.pend.set b (s.pend.get b).tail := by
  obtain ⟨hp, he⟩ | ⟨w, rest, hp, he⟩ := postStep_cases b s <;> rw [he, hp]
  · rw [List.tail_nil, ← hp, PerBus.set_get]
  · rfl

end Sys2Proof.Machine
end

