-- ==== Sys2Proof/Laws/Moves.lean ====
section
/-! SUPPORT. What a step can do, said once. `Move s t`: the acting agent of `s` can take the machine to `t`. Every
meaning, every micro-step and every request is a move (`exec_move`, `microStep_move`, `runRequest_move`), so a rule
about all of them is a case analysis over `Move`. -/

namespace Sys2Proof.Machine

/-- An agent has its next step ahead in a `DETACH` whose buses are all unregistered. -/
def State.atDetachClose (s : State) : Prop :=
  (s.me = .atRest ∧ s.buses = []) ∨ (s.me.seq = .idle ∧ s.me.task = .detach [] ∧ s.me.stopped = false)

inductive Move (s : State) : State → Prop where
  | stay : Move s s
  | fault (r : FaultReason) (hs : s.me.stopped = false) : Move s (raiseFault r s)
  | refuse (r : RefusalReason) (hs : s.me.stopped = false) : Move s (refuseOp r s)
  -- from rest
  | write (b : Bus) (w : Word) (hr : s.me = .atRest) (hm : s.win.status = .mapped)
      (hw : bitSet w Config.reservedMask = false) : Move s (postWrite b (Config.off b) w s)
  | read (b : Bus) (hr : s.me = .atRest) (hm : s.win.status = .mapped) (hp : s.pend.get b = []) :
      Move s (deliver (.word (readValue b s)) (noteRead (Config.off b) (readValue b s) s))
  | flush (b : Bus) (hr : s.me = .atRest) (hm : s.win.status = .mapped) (hp : s.pend.get b = []) :
      Move s (noteRead (Config.off b) (readValue b s) s)
  | hold (op : HeldOp) (hr : s.me = .atRest) (hm : s.win.status = .mapped) (hp : ∃ b, s.pend.get b ≠ []) :
      Move s (s.setTask (.waiting op))
  | start (p : Prim) (b : Bus) (hr : s.me = .atRest) (hb : s.registered b = true) :
      Move s (s.setSeq (.busy p b 0 none))
  | openOk (phys address : Nat) (hr : s.me = .atRest) (hn : s.win.status ≠ .mapped)
      (ha : windowAddress Config.physAddrWidth phys = (true, address)) :
      Move s (deliver .ok { s with win := { status := .mapped, base := some address } })
  | mapError (address : Nat) (hr : s.me = .atRest) (hn : s.win.status ≠ .mapped) :
      Move s (deliver (.mapError address) s)
  | attachOk (phys address : Nat) (hr : s.me = .atRest) (hn : s.win.status ≠ .mapped)
      (ha : windowAddress Config.physAddrWidth phys = (true, address)) :
      Move s ({ s with win := { status := .mapped, base := some address } }.setTask (.attach .initI2cClk))
  | close (hr : s.me = .atRest) (hm : s.win.status = .mapped) (hb : s.buses = []) (hy : s.busyAgents = [])
      (hp : ∀ b, s.pend.get b = []) : Move s { s with win := { status := .closed, base := none } }
  | detachFirst (x : LogicalBus) (rest : List LogicalBus) (hr : s.me = .atRest) (hb : s.buses.reverse = x :: rest) :
      Move s ({ s with buses := s.buses.filter fun y => y ≠ x }.setTask (.detach rest))
  -- in a primitive
  | primWrite (p : Prim) (b : Bus) (k : Nat) (r : Option Word) (w : Word) (hq : s.me.seq = .busy p b k r)
      (hs : s.me.stopped = false) (ho : (microOps p)[k]? = some (.write w)) (hm : s.win.status = .mapped)
      (hw : bitSet w Config.reservedMask = false) :
      Move s ((postWrite b (Config.off b) w s).setSeq (.busy p b (k + 1) r))
  | primRead (p : Prim) (b : Bus) (k : Nat) (r : Option Word) (hq : s.me.seq = .busy p b k r)
      (hs : s.me.stopped = false) (ho : (microOps p)[k]? = some .read) (hm : s.win.status = .mapped)
      (hp : s.pend.get b = []) :
      Move s ((noteRead (Config.off b) (readValue b s) s).setSeq (.busy p b (k + 1) (some (readValue b s))))
  | primReturn (p : Prim) (b : Bus) (r : Option Word) (hq : s.me.seq = .busy p b (microOps p).length r)
      (hs : s.me.stopped = false) (ht : s.me.task = .none) (hl : resultLine p = none) : Move s (s.setSeq .idle)
  | primResult (p : Prim) (b : Bus) (l : Line) (w : Word) (hq : s.me.seq = .busy p b (microOps p).length (some w))
      (hs : s.me.stopped = false) (ht : s.me.task = .none) (hl : resultLine p = some l) :
      Move s (deliver (.level (inputBit l w)) (s.setSeq .idle))
  -- in an ATTACH
  | attachStart (st : AttachStage) (p : Prim) (b : Bus) (hq : s.me.seq = .idle) (hs : s.me.stopped = false)
      (ht : s.me.task = .attach st) (hst : AttachStage.prim st = some (p, b)) : Move s (s.setSeq (.busy p b 0 none))
  | attachReturn (st : AttachStage) (p : Prim) (b : Bus) (r : Option Word)
      (hq : s.me.seq = .busy p b (microOps p).length r) (hs : s.me.stopped = false) (ht : s.me.task = .attach st)
      (hl : resultLine p = none) : Move s (s.setMe { s.me with seq := .idle, task := .attach st.next })
  | firstBus (hq : s.me.seq = .idle) (hs : s.me.stopped = false) (ht : s.me.task = .attach .registerI2c) :
      Move s ({ s with buses := [logicalBus .i2c] }.setTask (.attach .registerDdc))
  | secondBus (hq : s.me.seq = .idle) (hs : s.me.stopped = false) (ht : s.me.task = .attach .registerDdc) :
      Move s ({ s with buses := s.buses ++ [logicalBus .ddc] }.setTask (.attach .finish))
  | attachDone (hq : s.me.seq = .idle) (hs : s.me.stopped = false) (ht : s.me.task = .attach .finish) :
      Move s ((deliver .ok { s with attached := true }).setTask .none)
  -- out of a hold
  | retryRead (b : Bus) (hq : s.me.seq = .idle) (hs : s.me.stopped = false)
      (ht : s.me.task = .waiting (.read (Config.off b))) (hm : s.win.status = .mapped) (hp : s.pend.get b = []) :
      Move s ((deliver (.word (readValue b s)) (noteRead (Config.off b) (readValue b s) s)).setTask .none)
  | retryFlush (b : Bus) (hq : s.me.seq = .idle) (hs : s.me.stopped = false)
      (ht : s.me.task = .waiting (.flush (Config.off b))) (hm : s.win.status = .mapped) (hp : s.pend.get b = []) :
      Move s ((noteRead (Config.off b) (readValue b s) s).setTask .none)
  | retryClose (hq : s.me.seq = .idle) (hs : s.me.stopped = false) (ht : s.me.task = .waiting .close)
      (hm : s.win.status = .mapped) (hb : s.buses = []) (hy : s.busyAgents = []) (hp : ∀ b, s.pend.get b = []) :
      Move s ({ s with win := { status := .closed, base := none } }.setTask .none)
  | retryCloseNoop (hq : s.me.seq = .idle) (hs : s.me.stopped = false) (ht : s.me.task = .waiting .close)
      (hn : s.win.status ≠ .mapped) : Move s (s.setTask .none)
  -- in a DETACH
  | detachNext (x : LogicalBus) (rest : List LogicalBus) (hq : s.me.seq = .idle) (hs : s.me.stopped = false)
      (ht : s.me.task = .detach (x :: rest)) :
      Move s ({ s with buses := s.buses.filter fun y => y ≠ x }.setTask (.detach rest))
  | detachHold (hd : s.atDetachClose) (hm : s.win.status = .mapped) (hp : ∃ b, s.pend.get b ≠ []) :
      Move s (s.setTask (.detach []))
  | detachNoop (hd : s.atDetachClose) (hn : s.win.status ≠ .mapped) :
      Move s ({ s with attached := false }.setTask .none)
  | detachClose (hd : s.atDetachClose) (hm : s.win.status = .mapped) (hb : s.buses = []) (hy : s.busyAgents = [])
      (hp : ∀ b, s.pend.get b = []) :
      Move s ({ s with win := { status := .closed, base := none }, attached := false }.setTask .none)

/-! ### Spec lemmas of the shared operations: when each answers a next state, what that state is -/

theorem checkAccess_ok {st : WinStatus} {off : Nat} {w : Option Word} {b : Bus} (h : checkAccess st off w = .ok b) :
    st = .mapped ∧ off = Config.off b ∧ bitSet (w.getD 0) Config.reservedMask = false := by
  unfold checkAccess at h
  split at h
  · cases h
  rename_i hm
  split at h
  · cases h
  split at h
  · cases h
  split at h
  · cases h
  rename_i b' hb'
  split at h
  · cases h
  · cases h
    exact ⟨by simpa using hm, busAt_eq_some hb', by simp_all⟩

theorem checkAccess_off (b : Bus) (w : Option Word) (hw : bitSet (w.getD 0) Config.reservedMask = false) :
    checkAccess .mapped (Config.off b) w = .ok b := by
  have h1 : Config.off b % 4 = 0 := by cases b <;> decide
  have h2 : ¬ Config.off b + 4 > Config.windowLen := by cases b <;> decide
  have hw' : bitSet (w.getD 0#32) Config.reservedMask = false := hw
  simp [checkAccess, h1, h2, hw']

theorem writeThen_next {off : Nat} {w : Word} {k : State → State} {s t : State} (h : writeThen off w k s = .next t) :
    (∃ r, t = raiseFault r s) ∨ (∃ r, t = refuseOp r s) ∨
    ∃ b, off = Config.off b ∧ s.win.status = .mapped ∧ bitSet w Config.reservedMask = false ∧
      t = k (postWrite b off w s) := by
  unfold writeThen at h
  split at h
  · cases h; exact .inl ⟨_, rfl⟩
  · cases h; exact .inr (.inl ⟨_, rfl⟩)
  · rename_i b hb
    cases h
    obtain ⟨hm, ho, hw⟩ := checkAccess_ok hb
    exact .inr (.inr ⟨b, ho, hm, hw, rfl⟩)

theorem readThen_next {off : Nat} {held : State → State} {k : Word → State → State} {s t : State}
    (h : readThen off held k s = .next t) :
    (∃ r, t = raiseFault r s) ∨ (∃ r, t = refuseOp r s) ∨
    ∃ b, off = Config.off b ∧ s.win.status = .mapped ∧
      ((s.pend.get b = [] ∧ t = k (readValue b s) (noteRead off (readValue b s) s)) ∨
       (s.pend.get b ≠ [] ∧ t = held s)) := by
  unfold readThen at h
  split at h
  · cases h; exact .inl ⟨_, rfl⟩
  · cases h; exact .inr (.inl ⟨_, rfl⟩)
  · rename_i b hb
    obtain ⟨hm, ho, -⟩ := checkAccess_ok hb
    split at h <;> cases h
    · exact .inr (.inr ⟨b, ho, hm, .inl ⟨by assumption, rfl⟩⟩)
    · exact .inr (.inr ⟨b, ho, hm, .inr ⟨by assumption, rfl⟩⟩)

theorem openThen_next {phys : Nat} {k : State → State} {s t : State} (h : openThen phys k s = .next t) :
    (∃ r, t = raiseFault r s) ∨ (s.win.status ≠ .mapped ∧
      ((∃ address, t = deliver (.mapError address) s) ∨
       ∃ address, windowAddress Config.physAddrWidth phys = (true, address) ∧
        t = k { s with win := { status := .mapped, base := some address } })) := by
  unfold openThen at h
  split at h
  · cases h; exact .inl ⟨_, rfl⟩
  · rename_i hm
    refine .inr ⟨hm, ?_⟩
    split at h
    · cases h; exact .inl ⟨_, rfl⟩
    · rename_i a ha
      split at h <;> cases h
      · exact .inr ⟨a, ha, rfl⟩
      · exact .inl ⟨_, rfl⟩

theorem closeThen_next {held k : State → State} {s t : State} (h : closeThen held k s = .next t) :
    (s.win.status ≠ .mapped ∧ t = k s) ∨ (∃ r, t = raiseFault r s) ∨
    (s.win.status = .mapped ∧ s.buses = [] ∧ s.busyAgents = [] ∧
      (((∃ b, s.pend.get b ≠ []) ∧ t = held s) ∨
       ((∀ b, s.pend.get b = []) ∧ t = k { s with win := { status := .closed, base := none } }))) := by
  unfold closeThen at h
  split at h
  · cases h; exact .inl ⟨by assumption, rfl⟩
  · rename_i hm
    split at h
    · cases h; exact .inr (.inl ⟨_, rfl⟩)
    · rename_i hb
      have hm' : s.win.status = .mapped := by simpa using hm
      obtain ⟨hb1, hb2⟩ : s.buses = [] ∧ s.busyAgents = [] := by simpa using hb
      split at h <;> cases h
      · rename_i hp
        refine .inr (.inr ⟨hm', hb1, hb2, .inl ⟨?_, rfl⟩⟩)
        rcases hp with hp | hp
        · exact ⟨.i2c, hp⟩
        · exact ⟨.ddc, hp⟩
      · rename_i hp
        refine .inr (.inr ⟨hm', hb1, hb2, .inr ⟨?_, rfl⟩⟩)
        intro b
        cases b
        · by_contra h; exact hp (.inl h)
        · by_contra h; exact hp (.inr h)

theorem whenAtRest_next {f : State → Outcome} {s t : State} (h : whenAtRest f s = .next t) :
    t = s ∨ (s.me = .atRest ∧ f s = .next t) := by
  unfold whenAtRest at h
  split at h
  · exact .inr ⟨by assumption, h⟩
  · cases h; exact .inl rfl

/-! ### Every step of an agent is a move -/

theorem stopped_of_atRest {s : State} (h : s.me = .atRest) : s.me.stopped = false := by rw [h]; rfl

theorem bareWrite_move {off : Nat} {w : Word} {s t : State} (h : whenAtRest (writeThen off w id) s = .next t) :
    Move s t := by
  obtain rfl | ⟨hr, h⟩ := whenAtRest_next h
  · exact .stay
  obtain ⟨r, rfl⟩ | ⟨r, rfl⟩ | ⟨b, rfl, hm, hw, rfl⟩ := writeThen_next h
  · exact .fault r (stopped_of_atRest hr)
  · exact .refuse r (stopped_of_atRest hr)
  · exact .write b w hr hm hw

theorem startPrim_move {p : Prim} {b : Bus} {s t : State} (h : startPrim p b s = .next t) : Move s t := by
  obtain rfl | ⟨hr, h⟩ := whenAtRest_next h
  · exact .stay
  split at h <;> cases h
  · exact .start p b hr (by assumption)
  · exact .fault _ (stopped_of_atRest hr)

theorem detachStep_nil_move {s t : State} (hd : s.atDetachClose) (h : detachStep [] s = .next t) : Move s t := by
  have hs : s.me.stopped = false := by
    obtain ⟨hr, -⟩ | ⟨-, -, hs⟩ := hd
    · exact stopped_of_atRest hr
    · exact hs
  simp only [detachStep] at h
  obtain ⟨hn, rfl⟩ | ⟨r, rfl⟩ | ⟨hm, hb, hy, ⟨hp, rfl⟩ | ⟨hp, rfl⟩⟩ := closeThen_next h
  · exact .detachNoop hd hn
  · exact .fault r hs
  · exact .detachHold hd hm hp
  · exact .detachClose hd hm hb hy hp

theorem exec_move {i : Instr} {s t : State} (h : exec i s = .next t) : Move s t := by
  cases i with
  | wr32 off w => exact bareWrite_move h
  | wr32Ctl b c d => exact bareWrite_move h
  | setClk1 b => exact bareWrite_move h
  | setClk0 b => exact bareWrite_move h
  | setDat1 b => exact bareWrite_move h
  | setDat0 b => exact bareWrite_move h
  | relClk b => exact bareWrite_move h
  | relDat b => exact bareWrite_move h
  | latch b => exact bareWrite_move h
  | rd32 off =>
    obtain rfl | ⟨hr, h⟩ := whenAtRest_next h
    · exact .stay
    obtain ⟨r, rfl⟩ | ⟨r, rfl⟩ | ⟨b, rfl, hm, ⟨hp, rfl⟩ | ⟨hp, rfl⟩⟩ := readThen_next h
    · exact .fault r (stopped_of_atRest hr)
    · exact .refuse r (stopped_of_atRest hr)
    · exact .read b hr hm hp
    · exact .hold _ hr hm ⟨b, hp⟩
  | flush off =>
    obtain rfl | ⟨hr, h⟩ := whenAtRest_next h
    · exact .stay
    obtain ⟨r, rfl⟩ | ⟨r, rfl⟩ | ⟨b, rfl, hm, ⟨hp, rfl⟩ | ⟨hp, rfl⟩⟩ := readThen_next h
    · exact .fault r (stopped_of_atRest hr)
    · exact .refuse r (stopped_of_atRest hr)
    · exact .flush b hr hm hp
    · exact .hold _ hr hm ⟨b, hp⟩
  | primSetClk1 b => exact startPrim_move h
  | primSetClk0 b => exact startPrim_move h
  | primSetDat1 b => exact startPrim_move h
  | primSetDat0 b => exact startPrim_move h
  | primGetClk b => exact startPrim_move h
  | primGetDat b => exact startPrim_move h
  | openWin phys =>
    obtain rfl | ⟨hr, h⟩ := whenAtRest_next h
    · exact .stay
    obtain ⟨r, rfl⟩ | ⟨hn, ⟨a, rfl⟩ | ⟨a, ha, rfl⟩⟩ := openThen_next h
    · exact .fault r (stopped_of_atRest hr)
    · exact .mapError a hr hn
    · exact .openOk phys a hr hn ha
  | close =>
    obtain rfl | ⟨hr, h⟩ := whenAtRest_next h
    · exact .stay
    obtain ⟨-, rfl⟩ | ⟨r, rfl⟩ | ⟨hm, hb, hy, ⟨hp, rfl⟩ | ⟨hp, rfl⟩⟩ := closeThen_next h
    · exact .stay
    · exact .fault r (stopped_of_atRest hr)
    · exact .hold _ hr hm hp
    · exact .close hr hm hb hy hp
  | attach phys =>
    obtain rfl | ⟨hr, h⟩ := whenAtRest_next h
    · exact .stay
    obtain ⟨r, rfl⟩ | ⟨hn, ⟨a, rfl⟩ | ⟨a, ha, rfl⟩⟩ := openThen_next h
    · exact .fault r (stopped_of_atRest hr)
    · exact .mapError a hr hn
    · exact .attachOk phys a hr hn ha
  | detach =>
    obtain rfl | ⟨hr, h⟩ := whenAtRest_next h
    · exact .stay
    cases hb : s.buses.reverse with
    | nil =>
      rw [hb] at h
      exact detachStep_nil_move (.inl ⟨hr, by simpa using hb⟩) h
    | cons x rest =>
      rw [hb] at h
      cases h
      exact .detachFirst x rest hr hb

theorem returnPrim_move {p : Prim} {b : Bus} {r : Option Word} {s t : State}
    (hq : s.me.seq = .busy p b (microOps p).length r) (hs : s.me.stopped = false)
    (h : returnPrim p r s = .next t) : Move s t := by
  unfold returnPrim at h
  split at h
  · rename_i st ht hl
    cases h
    exact .attachReturn st p b _ hq hs ht hl
  · rename_i ht hl
    cases h
    exact .primReturn p b _ hq hs ht hl
  · rename_i l w ht hl
    cases h
    exact .primResult p b l w hq hs ht hl
  · cases h

theorem primStep_move {p : Prim} {b : Bus} {k : Nat} {r : Option Word} {s t : State}
    (hq : s.me.seq = .busy p b k r) (hs : s.me.stopped = false) (h : primStep p b k r s = .next t) : Move s t := by
  unfold primStep at h
  split at h
  · rename_i w ho
    obtain ⟨r, rfl⟩ | ⟨r, rfl⟩ | ⟨b', hb, hm, hw, rfl⟩ := writeThen_next h
    · exact .fault _ hs
    · exact .refuse _ hs
    · obtain rfl := off_injective hb
      exact .primWrite p b k r w hq hs ho hm hw
  · rename_i ho
    obtain ⟨r, rfl⟩ | ⟨r, rfl⟩ | ⟨b', hb, hm, ⟨hp, rfl⟩ | ⟨hp, rfl⟩⟩ := readThen_next h
    · exact .fault _ hs
    · exact .refuse _ hs
    · obtain rfl := off_injective hb
      exact .primRead p b k r hq hs ho hm hp
    · exact .stay
  · split at h
    · rename_i hk
      subst hk
      exact returnPrim_move hq hs h
    · cases h

theorem retryHeld_move {op : HeldOp} {s t : State} (hq : s.me.seq = .idle) (hs : s.me.stopped = false)
    (ht : s.me.task = .waiting op) (h : retryHeld op s = .next t) : Move s t := by
  cases op with
  | read off =>
    simp only [retryHeld] at h
    obtain ⟨r, rfl⟩ | ⟨r, rfl⟩ | ⟨b, rfl, hm, ⟨hp, rfl⟩ | ⟨hp, rfl⟩⟩ := readThen_next h
    · exact .fault _ hs
    · exact .refuse _ hs
    · exact .retryRead b hq hs ht hm hp
    · exact .stay
  | flush off =>
    simp only [retryHeld] at h
    obtain ⟨r, rfl⟩ | ⟨r, rfl⟩ | ⟨b, rfl, hm, ⟨hp, rfl⟩ | ⟨hp, rfl⟩⟩ := readThen_next h
    · exact .fault _ hs
    · exact .refuse _ hs
    · exact .retryFlush b hq hs ht hm hp
    · exact .stay
  | close =>
    simp only [retryHeld] at h
    obtain ⟨hn, rfl⟩ | ⟨r, rfl⟩ | ⟨hm, hb, hy, ⟨hp, rfl⟩ | ⟨hp, rfl⟩⟩ := closeThen_next h
    · exact .retryCloseNoop hq hs ht hn
    · exact .fault _ hs
    · exact .stay
    · exact .retryClose hq hs ht hm hb hy hp

theorem microStep_move {s t : State} (h : microStep s = .next t) : Move s t := by
  unfold microStep at h
  split at h
  · cases h; exact .stay
  rename_i hs
  have hs : s.me.stopped = false := by simpa using hs
  split at h
  · exact primStep_move (by assumption) hs h
  · cases h; exact .stay
  · exact retryHeld_move (by assumption) hs (by assumption) h
  · rename_i st hq ht
    cases st with
    | initI2cClk => cases h; exact .attachStart _ _ _ hq hs ht rfl
    | initI2cDat => cases h; exact .attachStart _ _ _ hq hs ht rfl
    | initDdcClk => cases h; exact .attachStart _ _ _ hq hs ht rfl
    | initDdcDat => cases h; exact .attachStart _ _ _ hq hs ht rfl
    | registerI2c => cases h; exact .firstBus hq hs ht
    | registerDdc => cases h; exact .secondBus hq hs ht
    | finish => cases h; exact .attachDone hq hs ht
  · rename_i rem hq ht
    cases rem with
    | nil => exact detachStep_nil_move (.inr ⟨hq, ht, hs⟩) h
    | cons x rest => cases h; exact .detachNext x rest hq hs ht

theorem runRequest_move {q : Request} {s t : State} (h : runRequest q s = .next t) : Move s t := by
  cases q with
  | call i => exact exec_move h
  | acc width w =>
    simp only [runRequest] at h
    split at h
    · obtain rfl | ⟨hr, h⟩ := whenAtRest_next h
      · exact .stay
      · cases h; exact .refuse _ (stopped_of_atRest hr)
    · split at h
      · exact exec_move h
      · obtain rfl | ⟨-, h⟩ := whenAtRest_next h
        · exact .stay
        · cases h

/-- What one event can do. -/
theorem runEvent_cases {e : Event} {s t : State} (h : runEvent e s = .next t) :
    (∃ a, (e = .micro a ∨ ∃ q, e = .request a q) ∧ Move { s with actor := a } t) ∨
    (∃ b, e = .post b ∧ t = postStep b s) ∨ (∃ b l low, e = .peer b l low ∧ t = peerStep b l low s) ∨
    (∃ b l, e = .settle b l ∧ t = settleStep b l s) ∨ (∃ b l, e = .sample b l ∧ t = sampleStep b l s) := by
  cases e with
  | request a q => exact .inl ⟨a, .inr ⟨q, rfl⟩, runRequest_move h⟩
  | micro a => exact .inl ⟨a, .inl rfl, microStep_move h⟩
  | post b => cases h; exact .inr (.inl ⟨b, rfl, rfl⟩)
  | peer b l low => cases h; exact .inr (.inr (.inl ⟨b, l, low, rfl, rfl⟩))
  | settle b l => cases h; exact .inr (.inr (.inr (.inl ⟨b, l, rfl, rfl⟩)))
  | sample b l => cases h; exact .inr (.inr (.inr (.inr ⟨b, l, rfl, rfl⟩)))

/-- A step is the next step of an `ATTACH` whose turn it is, or else the event at the head of the schedule. -/
theorem step_cases {s t : State} (h : step s = .next t) :
    (∃ a, s.attachTurn = some a ∧ runEvent (.micro a) s = .next t) ∨
    (s.attachTurn = none ∧ s.schedule = [] ∧ t = s) ∨
    ∃ e rest, s.attachTurn = none ∧ s.schedule = e :: rest ∧ runEvent e { s with schedule := rest } = .next t := by
  unfold step at h
  split at h
  · exact .inl ⟨_, by assumption, h⟩
  · cases h; exact .inr (.inl ⟨by assumption, by assumption, rfl⟩)
  · exact .inr (.inr ⟨_, _, by assumption, by assumption, h⟩)

end Sys2Proof.Machine
end

