-- ==== Sys2Proof/Laws/PerInstr.lean ====
section
/-! SUPPORT. One law for each instruction: its words fit the 45 bits of the `ACC` packing (30_encoding.md R100). -/

namespace Sys2Proof.Laws.WordsFit

/-- Every word of the instruction's encoding is below `2 ^ 45`. -/
def Statement (i : Instr) : Prop := ∀ w ∈ encode i, w.toNat < 2 ^ 45

theorem accWord_fits (k : Bool) (off : Nat) (v : Word) : (accWord k off v).toNat < 2 ^ 45 := by
  have h := (BitVec.ofBool k ++ (BitVec.ofNat 12 off ++ v)).isLt
  have e : (accWord k off v).toNat = (BitVec.ofBool k ++ (BitVec.ofNat 12 off ++ v)).toNat := by
    rw [accWord, BitVec.toNat_append]
    simp
  rw [e]
  exact h

theorem of_accesses {i : Instr} (h : ∀ w ∈ encode i, ∃ k off v, w = accWord k off v) : Statement i := by
  intro w hw
  obtain ⟨k, off, v, rfl⟩ := h w hw
  exact accWord_fits k off v

theorem wr32 (off : Nat) (w : Word) : Statement (.wr32 off w) := of_accesses (by simp [encode, expansion, accessWord])
theorem wr32Ctl (b : Bus) (c d : LineCtl) : Statement (.wr32Ctl b c d) := of_accesses (by simp [encode, expansion, accessWord])
theorem rd32 (off : Nat) : Statement (.rd32 off) := of_accesses (by simp [encode, expansion, accessWord])
theorem flush (off : Nat) : Statement (.flush off) := of_accesses (by simp [encode, expansion, accessWord])
theorem setClk1 (b : Bus) : Statement (.setClk1 b) := of_accesses (by simp [encode, expansion, accessWord])
theorem setClk0 (b : Bus) : Statement (.setClk0 b) := of_accesses (by simp [encode, expansion, accessWord])
theorem setDat1 (b : Bus) : Statement (.setDat1 b) := of_accesses (by simp [encode, expansion, accessWord])
theorem setDat0 (b : Bus) : Statement (.setDat0 b) := of_accesses (by simp [encode, expansion, accessWord])
theorem relClk (b : Bus) : Statement (.relClk b) := of_accesses (by simp [encode, expansion, accessWord])
theorem relDat (b : Bus) : Statement (.relDat b) := of_accesses (by simp [encode, expansion, accessWord])
theorem latch (b : Bus) : Statement (.latch b) := of_accesses (by simp [encode, expansion, accessWord])
theorem primSetClk1 (b : Bus) : Statement (.primSetClk1 b) := of_accesses (by simp [encode, expansion, accessWord])
theorem primSetClk0 (b : Bus) : Statement (.primSetClk0 b) := of_accesses (by simp [encode, expansion, accessWord])
theorem primSetDat1 (b : Bus) : Statement (.primSetDat1 b) := of_accesses (by simp [encode, expansion, accessWord])
theorem primSetDat0 (b : Bus) : Statement (.primSetDat0 b) := of_accesses (by simp [encode, expansion, accessWord])
theorem primGetClk (b : Bus) : Statement (.primGetClk b) := of_accesses (by simp [encode, expansion, accessWord])
theorem primGetDat (b : Bus) : Statement (.primGetDat b) := of_accesses (by simp [encode, expansion, accessWord])
theorem openWin (p : Nat) : Statement (.openWin p) := of_accesses (by simp [encode, expansion])
theorem close : Statement .close := of_accesses (by simp [encode, expansion])
theorem attach (p : Nat) : Statement (.attach p) := of_accesses (by simp [encode, expansion, accessWord])
theorem detach : Statement .detach := of_accesses (by simp [encode, expansion])

end Sys2Proof.Laws.WordsFit
end

