-- ==== Sys2Proof/Laws/Totality.lean ====
section
/-! SUPPORT. Every shared operation answers a next state, and what a step keeps whatever it does. -/

namespace Sys2Proof.Machine

/-! ### The fault set -/

theorem mem_addFault {r f : FaultRecord} {l : List FaultRecord} : f ∈ addFault r l ↔ f = r ∨ f ∈ l := by
  unfold addFault
  split
  · constructor
    · exact .inr
    · rintro (rfl | h) <;> assumption
  · exact List.mem_cons

theorem addFault_nodup {r : FaultRecord} {l : List FaultRecord} (h : l.Nodup) : (addFault r l).Nodup := by
  unfold addFault
  split
  · exact h
  · exact List.nodup_cons.2 ⟨by assumption, h⟩

/-! ### From rest -/

theorem whenAtRest_of_atRest {f : State → Outcome} {s : State} (h : s.agent s.actor = .atRest) : whenAtRest f s = f s :=
  if_pos h

theorem whenAtRest_of_engaged {f : State → Outcome} {s : State} (h : s.me ≠ .atRest) : whenAtRest f s = .next s :=
  if_neg h

theorem writeThen_off {s : State} (b : Bus) {w : Word} (k : State → State) (hm : s.win.status = .mapped)
    (hw : bitSet w Config.reservedMask = false) :
    writeThen (Config.off b) w k s = .next (k (postWrite b (Config.off b) w s)) := by
  unfold writeThen
  rw [hm, checkAccess_off b _ (by simpa using hw)]

theorem readThen_off {s : State} (b : Bus) (held : State → State) (k : Word → State → State)
    (hm : s.win.status = .mapped) :
    readThen (Config.off b) held k s =
      if s.pend.get b = [] then .next (k (readValue b s) (noteRead (Config.off b) (readValue b s) s))
      else .next (held s) := by
  unfold readThen
  rw [hm, checkAccess_off b none (by decide)]

/-! ### Every shared operation answers a next state -/

theorem writeThen_total (off : Nat) (w : Word) (k : State → State) (s : State) : ∃ t, writeThen off w k s = .next t := by
  unfold writeThen
  split <;> exact ⟨_, rfl⟩

theorem readThen_total (off : Nat) (held : State → State) (k : Word → State → State) (s : State) :
    ∃ t, readThen off held k s = .next t := by
  unfold readThen
  split
  · exact ⟨_, rfl⟩
  · exact ⟨_, rfl⟩
  · split <;> exact ⟨_, rfl⟩

theorem openThen_total (phys : Nat) (k : State → State) (s : State) : ∃ t, openThen phys k s = .next t := by
  unfold openThen
  split
  · exact ⟨_, rfl⟩
  · split
    · exact ⟨_, rfl⟩
    · split <;> exact ⟨_, rfl⟩

theorem closeThen_total (held k : State → State) (s : State) : ∃ t, closeThen held k s = .next t := by
  unfold closeThen
  split
  · exact ⟨_, rfl⟩
  · split
    · exact ⟨_, rfl⟩
    · split <;> exact ⟨_, rfl⟩

theorem whenAtRest_total {f : State → Outcome} {s : State} (h : ∃ t, f s = .next t) : ∃ t, whenAtRest f s = .next t := by
  unfold whenAtRest
  split
  · exact h
  · exact ⟨_, rfl⟩

/-! ### What no agent's step touches -/

/-- No agent's step changes a latch or a line: that is left to the posting path and the environment. -/
theorem Move.latches {s t : State} (h : Move s t) :
    t.dir = s.dir ∧ t.out = s.out ∧ t.inl = s.inl ∧ t.peerLow = s.peerLow ∧ t.settled = s.settled := by
  cases h <;> exact ⟨rfl, rfl, rfl, rfl, rfl⟩

/-- An agent's step changes no other agent. -/
theorem Move.agent_ne {s t : State} (h : Move s t) {a : AgentId} (ha : a ≠ s.actor) : t.agent a = s.agent a := by
  cases h <;> first
    | rfl
    | exact lookup_insert_ne _ _ ha

theorem Move.schedule {s t : State} (h : Move s t) : t.schedule = s.schedule := by
  cases h <;> rfl

/-- No event changes the schedule: only a step takes its head off. -/
theorem runEvent_schedule {e : Event} {s t : State} (h : runEvent e s = .next t) : t.schedule = s.schedule := by
  obtain ⟨a, -, hm⟩ | ⟨b, -, rfl⟩ | ⟨b, l, low, -, rfl⟩ | ⟨b, l, -, rfl⟩ | ⟨b, l, -, rfl⟩ := runEvent_cases h
  · exact hm.schedule
  · exact postStep_schedule b s
  · rfl
  · rfl
  · rfl

end Sys2Proof.Machine
end

