-- ==== Sys2Proof/Tests/Slice0.lean ====
section
/-! SUPPORT. Tests. Expected words and outcomes are those of spec/95_test_vectors.md (EV, PW, FV, RV, LV, PV, LC) and of
spec/30_encoding.md; the witnesses show that the hypotheses of every statement can be met. -/

namespace Sys2Proof.Tests

open Sys2Proof.Machine

/-! ### Small states -/

/-- Reset, with no peer on any line. -/
def quiet : State := { State.reset with peerLow := ⟨false, false, false, false⟩ }

/-- Quiet, with the window mapped and no bus registered. -/
def bare : State := { quiet with win := { status := .mapped, base := some 0x5000 } }

/-- Quiet, mapped, both buses registered. -/
def up : State := { bare with buses := [logicalBus .i2c, logicalBus .ddc], attached := true }

/-- Up, with the I2C clock line driven high and settled. -/
def high : State :=
  { up with dir := ⟨some .output, none, none, none⟩, out := ⟨some true, none, none, none⟩,
            settled := ⟨true, false, false, false⟩ }

/-- Up, with a peer holding the released I2C clock line low (clock stretching). -/
def stretched : State :=
  { up with dir := ⟨some .input, none, none, none⟩, peerLow := ⟨true, false, false, false⟩ }

/-- One agent in a primitive of its own. -/
def busyHost (p : Prim) (b : Bus) (k : Nat) (r : Option Word) : List (AgentId × AgentRec) :=
  [(.host, { AgentRec.atRest with seq := .busy p b k r })]

/-- One agent engaged in a task outside a primitive. -/
def engagedHost (t : Machine.Task) : List (AgentId × AgentRec) := [(.host, { AgentRec.atRest with task := t })]

/-- A test on the next state; false where there is none. -/
def nextSatisfies (f : State → Bool) (o : Outcome) : Bool :=
  match o with
  | .next t    => f t
  | .fault _   => false
  | .refused _ => false

/-- The next state of a run, with what a Bool test says of it. -/
theorem next_of_satisfies {f : State → Bool} {o : Outcome} (h : nextSatisfies f o = true) : ∃ t, o = .next t ∧ f t = true := by
  cases o with
  | next t => exact ⟨t, rfl, h⟩
  | fault r => cases h
  | refused r => cases h

theorem runs {o : Outcome} (h : nextSatisfies (fun _ => true) o = true) : ∃ t, o = .next t :=
  (next_of_satisfies h).imp fun _ h => h.1

/-- The only fault recorded in a state is this one, by the host at micro-step 0. -/
def onlyFault (r : FaultReason) (t : State) : Bool :=
  decide (t.faults = [{ reason := r, agent := .host, step := 0 }]) && (t.agent .host).stopped

/-- The state is marked refused for this reason, and no fault is recorded. -/
def onlyRefusal (r : RefusalReason) (t : State) : Bool :=
  t.refused && decide (t.faults = []) && decide (t.trace = [.refused .host r]) && (t.agent .host).stopped

/-! ### WellFormed refuses ill-formed terms -/

theorem test_open_beyond_address_width : (Instr.openWin (2 ^ Config.physAddrWidth)).wellFormed = false := by
  simp [Instr.wellFormed]
theorem test_attach_beyond_address_width : (Instr.attach (2 ^ Config.physAddrWidth)).wellFormed = false := by
  simp [Instr.wellFormed]
theorem test_open_zero_wellFormed : (Instr.openWin 0).wellFormed = true := by simp [Instr.wellFormed]
theorem test_wr32_offset_too_wide : (Instr.wr32 0x1000 0).encodable = false := by decide
theorem test_rd32_offset_too_wide : (Instr.rd32 0x1000).encodable = false := by decide
theorem test_flush_offset_too_wide : (Instr.flush 0x1000).encodable = false := by decide
theorem test_offset_top_encodable : (Instr.rd32 0xFFF).encodable = true := by decide

/-! ### Encodings, written out from 30_encoding.md R100, R102, R106 and vectors EV-1 to EV-12

`1 000000010b00 …` is a write to `0x10` (b = 0) or `0x14` (b = 1). -/

theorem test_decode_wr32 : decodeTableWord 48 0b100000100000000000000000000000000000000000001 =
    some (.wr32 0x040 1) := by decide
theorem test_decode_wr32Ctl : decodeTableWord 48 0b100000001010000000000000000000000010100001010 =
    some (.wr32Ctl .ddc ⟨false, true, false, true⟩ ⟨true, false, true, false⟩) := by decide
theorem test_decode_rd32 : decodeTableWord 48 0b000000001000000000000000000000000000000000000 = some (.rd32 0x10) := by decide
theorem test_encode_flush : encode (.flush 0x14) = [0b000000001010000000000000000000000000000000000#48] := by decide
theorem test_decode_setClk1 : decodeTableWord 48 0b100000001000000000000000000000000000000001111 = some (.setClk1 .i2c) := by decide
theorem test_decode_setClk0 : decodeTableWord 48 0b100000001010000000000000000000000000000000111 = some (.setClk0 .ddc) := by decide
theorem test_decode_setDat1 : decodeTableWord 48 0b100000001010000000000000000000000111100000000 = some (.setDat1 .ddc) := by decide
theorem test_decode_setDat0 : decodeTableWord 48 0b100000001000000000000000000000000011100000000 = some (.setDat0 .i2c) := by decide
theorem test_decode_relClk : decodeTableWord 48 0b100000001000000000000000000000000000000000001 = some (.relClk .i2c) := by decide
theorem test_decode_relDat : decodeTableWord 48 0b100000001010000000000000000000000000100000000 = some (.relDat .ddc) := by decide
theorem test_decode_latch : decodeTableWord 48 0b100000001010000000000000000000000000000000000 = some (.latch .ddc) := by decide
/-- EV-1, EV-6, EV-7, EV-4: the first access of each `SET_*`, then the flush. -/
theorem test_encode_primSetClk1 : encode (.primSetClk1 .i2c) = [0x10100000000F#48, 0x001000000000#48] := by decide
theorem test_encode_primSetClk0 : encode (.primSetClk0 .ddc) = [0x101400000007#48, 0x001400000000#48] := by decide
theorem test_encode_primSetDat1 : encode (.primSetDat1 .ddc) = [0x101400000F00#48, 0x001400000000#48] := by decide
theorem test_encode_primSetDat0 : encode (.primSetDat0 .i2c) = [0x101000000700#48, 0x001000000000#48] := by decide
/-- EV-9, EV-12. -/
theorem test_encode_primGetClk :
    encode (.primGetClk .i2c) = [0x101000000001#48, 0x101000000000#48, 0x001000000000#48] := by decide
theorem test_encode_primGetDat :
    encode (.primGetDat .ddc) = [0x101400000100#48, 0x101400000000#48, 0x001400000000#48] := by decide
/-- Program P1: the eight accesses of an `ATTACH`. -/
theorem test_encode_attach : encode (.attach 0x80000000) =
    [0x10100000000F#48, 0x001000000000#48, 0x101000000F00#48, 0x001000000000#48,
     0x10140000000F#48, 0x001400000000#48, 0x101400000F00#48, 0x001400000000#48] := by decide
/-- The host operations have no bus encoding. -/
theorem test_host_operations_have_no_word :
    encode (.openWin 0) = [] ∧ encode .close = [] ∧ encode .detach = [] := by decide
theorem test_reject_beyond_packing : decode 0x200000000000#48 = .error .beyondPacking := by rfl
theorem test_reject_read_with_value : decode 0x001000000001#48 = .error .readWithValue := by rfl

/-! ### Window addresses at 32 bits (AV-1, AV-3, AV-4, AV-5, AV-6) -/

theorem test_AV1 : windowAddress 32 0x80000000 = (true, 0x80005000) := by decide
theorem test_AV3 : windowAddress 32 0xE0000800 = (true, 0xE0005000) := by decide
theorem test_AV4 : windowAddress 32 0x00000FFF = (true, 0x00005000) := by decide
theorem test_AV5 : windowAddress 32 0xFFFFA000 = (true, 0xFFFFF000) := by decide
theorem test_AV6 : windowAddress 32 0xFFFFB000 = (false, 0x100000000) := by decide

/-! ### Performing a word (PW-1, PW-3, PW-5, PW-6, PW-9, PW-11, PW-13) -/

theorem test_PW1 : (performWith true .i2c 0xF quiet).dir = ⟨some .output, none, none, none⟩ ∧
    (performWith true .i2c 0xF quiet).out = ⟨some true, none, none, none⟩ := by decide
theorem test_PW3 : (performWith true .i2c 0x1 quiet).dir = ⟨some .input, none, none, none⟩ ∧
    (performWith true .i2c 0x1 quiet).out = ⟨none, none, none, none⟩ := by decide
theorem test_PW5 : (performWith true .i2c 0xA quiet).dir = quiet.dir ∧
    (performWith true .i2c 0xA quiet).out = quiet.out := by decide
theorem test_PW6 : (performWith false .i2c 0x4 quiet).dir = quiet.dir ∧
    (performWith false .i2c 0x4 quiet).out = ⟨some false, none, none, none⟩ := by decide
theorem test_PW9 : ((performWith false .i2c 0 quiet).inl.get .i2c .clk).isSome = true ∧
    ((performWith false .i2c 0 quiet).inl.get .i2c .dat).isSome = true ∧
    (performWith false .i2c 0 quiet).inl.get .ddc .clk = none := by decide
theorem test_PW11 : (performWith false .i2c 0x700 quiet).dir = ⟨none, some .output, none, none⟩ ∧
    (performWith false .i2c 0x700 quiet).out = ⟨none, some false, none, none⟩ := by decide
theorem test_PW13 : (performWith false .ddc 0xF00 quiet).dir = ⟨none, none, none, some .output⟩ ∧
    (performWith false .ddc 0xF00 quiet).out = ⟨none, none, none, some true⟩ := by decide
/-- PV-10: a latch write samples a stretched clock as low. -/
theorem test_latch_samples_stretched_clock :
    (performWith true .i2c 0 stretched).inl.get .i2c .clk = some false := by decide
/-- LV-10: high and then released, the line stays settled at level 1, and a latch write samples it high. -/
theorem test_LV10 : (performWith true .i2c 0x1 high).level .i2c .clk = .one ∧
    (performWith true .i2c 0 (performWith true .i2c 0x1 high)).inl.get .i2c .clk = some true := by decide

/-! ### Lines (LV-1, LV-3, LV-6, LV-11) -/

theorem test_LV1 : (performWith false .i2c 0x7 stretched).level .i2c .clk = .zero := by decide
theorem test_LV3 : (performWith false .i2c 0xF stretched).level .i2c .clk = .x := by decide
theorem test_LV6 : (performWith false .i2c 0x1 quiet).level .i2c .clk = .x ∧
    (settleStep .i2c .clk (performWith false .i2c 0x1 quiet)).level .i2c .clk = .one := by decide
theorem test_LV11 : (peerStep .i2c .clk true (performWith false .i2c 0x1 high)).level .i2c .clk = .zero ∧
    (peerStep .i2c .clk false (peerStep .i2c .clk true (performWith false .i2c 0x1 high))).level .i2c .clk = .x := by
  decide

/-! ### Access checks (FV-1 to FV-13) -/

theorem test_FV1 : nextSatisfies (onlyFault (.noWindow 0x10 (some 0x0F))) (exec (.wr32 0x10 0x0F) quiet) = true := by decide
theorem test_FV2 : nextSatisfies (onlyFault (.misaligned 0x12)) (exec (.wr32 0x12 0x0F) bare) = true := by decide
theorem test_FV3 : nextSatisfies (onlyFault (.badOffset 0x1000)) (exec (.rd32 0x1000) bare) = true := by decide
theorem test_FV4 : nextSatisfies (onlyRefusal .unmodelledOffset) (exec (.rd32 0xFFC) bare) = true := by decide
theorem test_FV6 : nextSatisfies (onlyRefusal .reservedBits) (exec (.wr32 0x10 0x10) bare) = true := by decide
theorem test_FV9 : nextSatisfies (onlyRefusal .reservedBits) (exec (.wr32 0x14 0xE0) bare) = true := by decide
theorem test_FV11 : nextSatisfies (onlyFault (.misaligned 0x1002)) (exec (.flush 0x1002) bare) = true := by decide
theorem test_FV12 : nextSatisfies (fun t => decide (t.pend = ⟨[0xF0F], []⟩))
    (exec (.wr32Ctl .i2c ⟨true, true, true, true⟩ ⟨true, true, true, true⟩) bare) = true := by decide
theorem test_FV13 : nextSatisfies (onlyRefusal .width)
    (runEvent (.request .host (.acc 16 0x00100000000F)) bare) = true := by decide

/-! ### Reads (RV-1, RV-3, RV-4) -/

/-- RV-1: bit 4 set and bit 12 clear, whatever the other bits. -/
theorem test_RV1 : (readValue .i2c { bare with inl := ⟨some true, some false, none, none⟩ }).getLsbD 4 = true ∧
    (readValue .i2c { bare with inl := ⟨some true, some false, none, none⟩ }).getLsbD 12 = false := by
  constructor <;> simp [readValue, PerLine.get, Config.masks]
theorem test_RV3 : nextSatisfies (fun t => decide ((t.agent .host).task = .waiting (.read 0x10)))
    (exec (.rd32 0x10) { bare with pend := ⟨[0x0F], []⟩ }) = true := by decide
theorem test_RV4 : nextSatisfies (fun t => decide (t.agent .host = .atRest))
    (exec (.flush 0x10) { bare with pend := ⟨[], [0x07]⟩ }) = true := by decide

/-! ### The named words, the primitives and the lifecycle, one step each -/

theorem test_exec_setClk1 : nextSatisfies (fun t => decide (t.pend = ⟨[0xF], []⟩)) (exec (.setClk1 .i2c) bare) = true := by decide
theorem test_exec_setClk0 : nextSatisfies (fun t => decide (t.pend = ⟨[], [0x7]⟩)) (exec (.setClk0 .ddc) bare) = true := by decide
theorem test_exec_setDat1 : nextSatisfies (fun t => decide (t.pend = ⟨[0xF00], []⟩)) (exec (.setDat1 .i2c) bare) = true := by decide
theorem test_exec_setDat0 : nextSatisfies (fun t => decide (t.pend = ⟨[], [0x700]⟩)) (exec (.setDat0 .ddc) bare) = true := by decide
theorem test_exec_relClk : nextSatisfies (fun t => decide (t.pend = ⟨[], [0x1]⟩)) (exec (.relClk .ddc) bare) = true := by decide
theorem test_exec_relDat : nextSatisfies (fun t => decide (t.pend = ⟨[0x100], []⟩)) (exec (.relDat .i2c) bare) = true := by decide
/-- A second write queues behind the first (20_memory.md R78). -/
theorem test_exec_latch : nextSatisfies (fun t => decide (t.pend = ⟨[0x1, 0], []⟩))
    (exec (.latch .i2c) { bare with pend := ⟨[0x1], []⟩ }) = true := by decide
/-- PV-9: no bus is registered. -/
theorem test_PV9 : nextSatisfies (onlyFault (.noBus .ddc (.setClock true))) (exec (.primSetClk1 .ddc) bare) = true := by decide
theorem test_exec_primSetClk0 : nextSatisfies
    (fun t => decide ((t.agent .host).seq = .busy (.setClock false) .ddc 0 none)) (exec (.primSetClk0 .ddc) up) = true := by decide
theorem test_exec_primSetDat1 : nextSatisfies
    (fun t => decide ((t.agent .host).seq = .busy (.setData true) .i2c 0 none)) (exec (.primSetDat1 .i2c) up) = true := by decide
theorem test_exec_primSetDat0 : nextSatisfies
    (fun t => decide ((t.agent .host).seq = .busy (.setData false) .i2c 0 none)) (exec (.primSetDat0 .i2c) up) = true := by decide
theorem test_exec_primGetClk : nextSatisfies
    (fun t => decide ((t.agent .host).seq = .busy .getClock .i2c 0 none)) (exec (.primGetClk .i2c) up) = true := by decide
theorem test_exec_primGetDat : nextSatisfies
    (fun t => decide ((t.agent .host).seq = .busy .getData .ddc 0 none)) (exec (.primGetDat .ddc) up) = true := by decide
/-- R192: the second micro-step of `GET_DATA` writes the latch word. -/
theorem test_getData_second_access : nextSatisfies (fun t => decide (t.pend = ⟨[], [0]⟩))
    (microStep { up with agents := [(.host, { AgentRec.atRest with seq := .busy .getData .ddc 1 none })] }) = true := by decide
/-- AV-8. -/
theorem test_AV8 : nextSatisfies (onlyFault (.doubleOpen (some 0x5000))) (exec (.openWin 0x80000000) bare) = true := by decide
/-- LC-3, LC-4, LC-6. -/
theorem test_LC3 : nextSatisfies (fun t => decide (t = { quiet with trace := t.trace })) (exec .close quiet) = true := by decide
theorem test_LC4 : nextSatisfies
    (fun t => onlyFault (.teardownOrder ["I810/I815 I2C Adapter", "I810/I815 DDC Adapter"] []) t &&
      decide (t.win.status = .mapped)) (exec .close up) = true := by decide
theorem test_LC6 : nextSatisfies (onlyFault (.doubleOpen (some 0x5000))) (exec (.attach 0x80000000) up) = true := by decide
/-- LC-5, its first step; LC-9. -/
theorem test_LC5_first : nextSatisfies (fun t => decide (t.buses = [logicalBus .i2c])) (exec .detach up) = true := by decide
theorem test_LC9 : nextSatisfies (fun t => decide (t.win.status = .unopened) && decide (t.agents = [])) (exec .detach quiet) = true := by decide
/-- LC-7: the `CLOSE` a `DETACH` ends with faults while an agent is busy. -/
theorem test_LC7 : nextSatisfies (onlyFault (.teardownOrder [] [.caller 0]))
    (microStep { bare with agents := engagedHost (.detach []) ++
      [(.caller 0, { AgentRec.atRest with seq := .busy .getClock .i2c 1 none })] }) = true := by decide
/-- 10_state.md R44: the return of a primitive inside an `ATTACH` moves its agent to `Idle`. -/
theorem test_attach_return_is_idle : nextSatisfies (fun t => decide ((t.agent .host).seq = .idle) && decide (t.busyAgents = []))
    (microStep { bare with agents := [(.host, { AgentRec.atRest with
      seq := .busy (.setClock true) .i2c 2 (some 0), task := .attach .initI2cClk })] }) = true := by decide
/-- 42_lifecycle.md R230: between two primitives of an `ATTACH` its next start comes before a caller's `CLOSE`. -/
theorem test_attach_goes_on_before_close : nextSatisfies
    (fun t => decide ((t.agent .host).seq = .busy (.setClock true) .ddc 0 none) &&
      decide (t.schedule = [.request (.caller 0) (.call .close)]))
    (step { bare with agents := engagedHost (.attach .initDdcClk), schedule := [.request (.caller 0) (.call .close)] }) = true := by
  decide
/-- 60_exceptions.md R256: a stopped agent takes no further step, whatever the word of its request. -/
theorem test_stopped_agent_requests_nothing : nextSatisfies (fun t => decide (t.trace = []) && decide (t.refused = false))
    (runEvent (.request .host (.acc 32 0x200000000000))
      { bare with agents := [(.host, { AgentRec.atRest with stopped := true })] }) = true := by decide
/-- The first word a program runs, right after reset: no window is mapped (R143). -/
theorem test_first_word : nextSatisfies (fun t => decide (t.faults.map FaultRecord.reason = [.noWindow 0x10 (some 0xF)]))
    (step (State.reset.withFetchWord 48 0x10100000000F)) = true := by decide

/-! ### The invariant of small states -/

theorem lookup_wf {l : List (AgentId × AgentRec)} (h : ∀ x ∈ l, agentWf x.2) (a : AgentId) : agentWf (lookupAgent a l) := by
  induction l with
  | nil => exact trivial
  | cons x l ih =>
    simp only [lookupAgent]
    split
    · exact h x List.mem_cons_self
    · exact ih fun y hy => h y (List.mem_cons_of_mem _ hy)

/-- A state with the test window, or with none ever opened and nothing pending, meets the invariant when its parts do. -/
theorem inv_of_parts {s : State} (hw : s.win = bare.win ∨ (s.win = quiet.win ∧ s.pend = ⟨[], []⟩))
    (ha : agentsWf s.agents = true) (hr : ∀ x ∈ s.agents, agentWf x.2)
    (hp : (s.pend.i2c ++ s.pend.ddc).all (fun w => !bitSet w Config.reservedMask) = true)
    (hl : ∀ b l, s.settled.get b l = settledOf (s.drive b l) (s.peerLow.get b l) (s.settled.get b l))
    (hb : s.buses.all (fun x => x.name == Config.busName x.bus) = true) (hf : s.faults = []) : s.Inv where
  agentList := ha
  agentRecs := lookup_wf hr
  window := by
    obtain hw | ⟨hw, -⟩ := hw
    · rw [hw]
      exact ⟨by decide, Nat.le_trans (by decide : 0x5000 + Config.windowLen ≤ 2 ^ 16)
        (Nat.pow_le_pow_right (by decide) (Nat.le_add_right 16 _))⟩
    · rw [hw]
      rfl
  legalWords := by
    intro b w h
    have := List.all_eq_true.1 hp w (by cases b <;> simp_all [PerBus.get])
    simpa using this
  drained := by
    intro h b
    obtain hw | ⟨-, hp⟩ := hw
    · exact absurd (by rw [hw]; rfl) h
    · rw [hp]
      cases b <;> rfl
  lines := hl
  names := fun x hx => by simpa using List.all_eq_true.1 hb x hx
  faultSet := by rw [hf]; exact List.nodup_nil
  faultStops := by rw [hf]; intro f h; cases h

theorem up_inv (pend : PerBus (List Word)) (hp : (pend.i2c ++ pend.ddc).all (fun w => !bitSet w Config.reservedMask) = true)
    (agents : List (AgentId × AgentRec)) (ha : agentsWf agents = true) (hr : ∀ x ∈ agents, agentWf x.2)
    (schedule : List Event) : ({ up with pend := pend, agents := agents, schedule := schedule } : State).Inv :=
  inv_of_parts (.inl rfl) ha hr hp (by intro b l; cases b <;> cases l <;> rfl) (show up.buses.all (fun x => x.name == Config.busName x.bus) = true by decide) rfl

theorem high_inv : high.Inv :=
  inv_of_parts (.inl rfl) (by decide) (by intro x h; cases h) (by decide) (by intro b l; cases b <;> cases l <;> rfl) (by decide) rfl

theorem stretched_inv : stretched.Inv :=
  inv_of_parts (.inl rfl) (by decide) (by intro x h; cases h) (by decide) (by intro b l; cases b <;> cases l <;> rfl) (by decide) rfl

/-- No bus registered, nothing pending, and the window mapped or never opened. -/
theorem noBus_inv (w : Window) (hw : w = bare.win ∨ w = quiet.win) (pend : PerBus (List Word))
    (hp : (pend.i2c ++ pend.ddc).all (fun w => !bitSet w Config.reservedMask) = true) (hq : w = bare.win ∨ pend = ⟨[], []⟩)
    (agents : List (AgentId × AgentRec)) (ha : agentsWf agents = true) (hr : ∀ x ∈ agents, agentWf x.2) :
    ({ quiet with win := w, pend := pend, agents := agents } : State).Inv :=
  inv_of_parts (hq.elim .inl fun h => hw.elim .inl fun h' => .inr ⟨h', h⟩) ha hr hp
    (by intro b l; cases b <;> cases l <;> rfl) rfl rfl

/-! ### Witnesses: the hypotheses of each statement can be met, clause by clause -/

theorem witness_EncodedWordsDecodeToExpansion :
    (Instr.wr32 0xFFF 0xFFFFFFFF).encodable = true ∧ (Instr.attach 0).encodable = true := by decide
theorem witness_DecodedAccessEncodesBack :
    decode 0x1FFFFFFFFFFF#48 = .ok (.wr32 0xFFF 0xFFFFFFFF) ∧
    decode 0x101400000F0F#48 =
      .ok (.wr32Ctl .ddc ⟨true, true, true, true⟩ ⟨true, true, true, true⟩) := by
  constructor <;> rfl
theorem witness_RejectedWordsCharacterised :
    2 ^ 45 ≤ (0x200000000000#48).toNat ∧
    ((0x000000000001#48).getLsbD 44 = false ∧ (0x000000000001#48).extractLsb' 0 32 ≠ 0) := by decide
theorem witness_StepRunsDecodedInstruction :
    (∃ (s : State) (a : AgentId) (rest : List Event) (i : Instr) (w : AccWord),
      s.attachTurn = none ∧ s.schedule = .request a (.acc 32 w) :: rest ∧ decode w = .ok i) ∧
    (∃ (s : State) (a : AgentId) (rest : List Event) (i : Instr),
      s.attachTurn = none ∧ s.schedule = .request a (.call i) :: rest) ∧
    (∃ s : State, s.attachTurn = none ∧ s.schedule = []) ∧ ∃ (s : State) (a : AgentId), s.attachTurn = some a :=
  ⟨⟨{ up with schedule := [.request .host (.acc 32 0x10100000000F)] }, .host, [], .setClk1 .i2c, _, rfl, rfl, rfl⟩,
   ⟨{ up with schedule := [.request .host (.call .close)] }, .host, [], .close, rfl, rfl⟩, ⟨up, rfl, rfl⟩,
   ⟨{ bare with agents := engagedHost (.attach .finish) }, .host, rfl⟩⟩
/-- A run with the turn of an `ATTACH` in it, and one with none. -/
theorem witness_ScheduledRunIsEventRun :
    (let s : State := { bare with agents := engagedHost (.attach .initI2cClk), schedule := [.post .i2c] }
     s.attachTurn = some .host ∧ ∃ t, Host.Core.run core 2 s = .next t) ∧
    up.schedule = [] ∧ ∀ k u, k < [Event.post .i2c].length → runAll ([Event.post .i2c].take k) up = .next u → u.attachTurn = none := by
  refine ⟨⟨rfl, _, rfl⟩, rfl, fun k u hk h => ?_⟩
  obtain rfl : k = 0 := by simpa using hk
  cases h
  rfl
theorem witness_PlacedWordRunsNext :
    decodeTableWord 48 0x001400000000 = some (.rd32 0x14) ∧ up.attachTurn = none := by decide
theorem witness_PerformWriteUpdatesEnabledFields : Bus.ddc ≠ Bus.i2c := by decide
theorem witness_CaptureAtPerformance :
    ¬(true = true ∧ ((performWith true .i2c 0 stretched).drive .i2c .clk = .low ∨
      (performWith true .i2c 0 stretched).drive .i2c .clk = .high)) ∧
    ((performWith true .i2c 0 high).drive .i2c .clk = .low ∨ (performWith true .i2c 0 high).drive .i2c .clk = .high) ∧
    (0x1 : Word) ≠ 0 := by decide
theorem witness_ReadValueShowsInputLatches :
    ({ bare with inl := ⟨some true, some false, none, none⟩ } : State).inl.get .i2c .clk = some true ∧
    ({ bare with inl := ⟨some true, some false, none, none⟩ } : State).inl.get .i2c .dat = some false ∧
    bare.inl.get .ddc .clk = none ∧ bare.inl.get .ddc .dat = none ∧ 5 ≠ 4 ∧ 5 ≠ 12 := by decide
theorem witness_DriveAndLevelTables :
    (bare.dir.get .i2c .clk = none ∧ bare.drive .i2c .clk = .unknown) ∧
    (stretched.dir.get .i2c .clk = some .input ∧ stretched.drive .i2c .clk = .released) ∧
    (let s : State := { bare with dir := ⟨some .output, some .output, some .output, none⟩, out := ⟨none, some false, some true, none⟩ }
     (s.dir.get .i2c .clk = some .output ∧ s.out.get .i2c .clk = none) ∧
     (s.dir.get .i2c .dat = some .output ∧ s.out.get .i2c .dat = some false ∧ s.drive .i2c .dat = .low) ∧
     (s.dir.get .ddc .clk = some .output ∧ s.out.get .ddc .clk = some true ∧ s.drive .ddc .clk = .high)) := by decide
theorem witness_LineUpdateSettlesLines :
    (high.drive .i2c .clk = .high ∧ high.peerLow.get .i2c .clk = false) ∧
    (let s : State := { bare with dir := ⟨some .input, none, none, none⟩ }
     s.drive .i2c .clk = .released ∧ s.peerLow.get .i2c .clk = false) ∧
    ¬((stretched.drive .i2c .clk = .high ∨ stretched.drive .i2c .clk = .released) ∧
      stretched.peerLow.get .i2c .clk = false) := by decide
theorem witness_EnvironmentStepsAsSpecified :
    (let s : State := { bare with dir := ⟨some .input, none, none, none⟩ }
     s.drive .i2c .clk = .released ∧ s.peerLow.get .i2c .clk = false) ∧
    ¬(stretched.drive .i2c .clk = .released ∧ stretched.peerLow.get .i2c .clk = false) ∧
    ¬(Bus.ddc = Bus.i2c ∧ Line.clk = Line.clk) := by decide
theorem witness_Wr32QueuesLegalWord :
    bare.agent bare.actor = .atRest ∧ bare.win.status = .mapped ∧ (0x00000F0F : Word) &&& 0xFFFFF0F0 = 0 := by decide
theorem witness_ControlWordFormsQueueTheirWords : bare.agent bare.actor = .atRest ∧ bare.win.status = .mapped := by decide
theorem witness_AccessChecksInOrder :
    (quiet.agent quiet.actor = .atRest ∧ quiet.win.status ≠ .mapped) ∧ bare.agent bare.actor = .atRest ∧
    bare.win.status = .mapped ∧ 0x1002 % 4 ≠ 0 ∧ (0x1000 % 4 = 0 ∧ 0x1000 + 4 > 0x1000) ∧
    (0xFFC % 4 = 0 ∧ 0xFFC + 4 ≤ 0x1000 ∧ 0xFFC ≠ 0x10 ∧ 0xFFC ≠ 0x14) ∧
    (0x18 % 4 = 0 ∧ 0x18 + 4 ≤ 0x1000 ∧ 0x18 ≠ 0x10 ∧ 0x18 ≠ 0x14) ∧
    ((0x00000010 : Word) &&& 0xFFFFF0F0 ≠ 0 ∧ (0x80000000 : Word) &&& 0xFFFFF0F0 ≠ 0) := by decide
theorem witness_OtherWidthsRefused : 16 ≠ 32 ∧ bare.agent .host = .atRest := by decide
theorem witness_Rd32ReturnsControlWord :
    bare.agent bare.actor = .atRest ∧ bare.win.status = .mapped ∧ bare.pend.get .ddc = [] := by decide
theorem witness_FlushReadsAndDiscards :
    let s : State := { bare with pend := ⟨[], [0x7]⟩ }
    s.agent s.actor = .atRest ∧ s.win.status = .mapped ∧ s.pend.get .i2c = [] := by decide
theorem witness_PendingWritesHoldReads :
    let s : State := { bare with pend := ⟨[], [0x7]⟩ }
    s.agent s.actor = .atRest ∧ s.win.status = .mapped ∧ s.pend.get .ddc ≠ [] := by decide
theorem witness_HeldReadCompletesWhenDrained :
    ∀ op ∈ [HeldOp.read (Config.off .i2c), HeldOp.flush (Config.off .i2c)], ∀ q ∈ [[], [(0x7 : Word)]],
      let s : State := { up with pend := ⟨q, []⟩, agents := engagedHost (.waiting op), schedule := [] }
      s.Inv ∧ s.win.status = .mapped ∧ s.agent .host = { AgentRec.atRest with task := .waiting op } ∧
      s.pend.get .i2c = q := by
  intro op hop q hq
  refine ⟨up_inv _ ?_ _ ?_ ?_ _, rfl, rfl, rfl⟩
  · simp only [List.mem_cons, List.not_mem_nil, or_false] at hq
    rcases hq with rfl | rfl <;> decide
  · simp only [List.mem_cons, List.not_mem_nil, or_false] at hop
    rcases hop with rfl | rfl <;> decide
  · simp [engagedHost, agentWf, AgentRec.atRest]
theorem witness_ReadsReturnOnlyWhenDrained :
    ∃ t v, runEvent (.request .host (.call (.flush 0x10))) bare = .next t ∧
      t.trace = [.read .host 0x10 v] ++ bare.trace := ⟨_, _, rfl, rfl⟩
theorem witness_PostingStepPerformsHead :
    bare.pend.get .i2c = [] ∧ ({ bare with pend := ⟨[0x7, 0xF], []⟩ } : State).pend.get .i2c = 0x7 :: [0xF] := by decide
theorem witness_IssuedWritesPerformOnceInOrder :
    let s : State := { bare with pend := ⟨[0x7], []⟩, trace := [.write .host 0x10 0x7], schedule := [.post .i2c] }
    (∃ t, step s = .next t) ∧ ∀ b, issuedWords b s.trace = performedWords b s.trace ++ s.pend.get b :=
  ⟨⟨_, rfl⟩, by intro b; cases b <;> decide⟩
theorem witness_FaultEntryChangesNothingElse :
    ∃ t, runEvent (.request .host (.call (.rd32 0x10))) quiet = .next t ∧ t.faults ≠ quiet.faults :=
  ⟨_, rfl, by decide⟩
/-- The first refusal of a run, and one by another agent after it. -/
theorem witness_RefusalChangesNothingElse :
    (∃ t, runEvent (.request .host (.call (.rd32 0xFFC))) bare = .next t ∧ t.refused ≠ bare.refused) ∧
    let s : State := { bare with refused := true, agents := [(.host, { AgentRec.atRest with stopped := true })] }
    ∃ t new, runEvent (.request (.caller 0) (.call (.rd32 0xFFC))) s = .next t ∧ t.trace = new ++ s.trace ∧
      .refused (.caller 0) .unmodelledOffset ∈ new :=
  ⟨⟨_, rfl, by decide⟩, _, [.refused (.caller 0) .unmodelledOffset], rfl, rfl, List.mem_singleton.2 rfl⟩
theorem witness_FaultsAndRefusalAreSticky :
    let s : State := { bare with refused := true, faults := [⟨.misaligned 2, .host, 0⟩], schedule := [.post .i2c] }
    (∃ t, step s = .next t) ∧ ⟨.misaligned 2, .host, 0⟩ ∈ s.faults ∧ s.refused = true :=
  ⟨⟨_, rfl⟩, by decide, rfl⟩
theorem witness_StoppedAgentTakesNoStep :
    let s : State := { bare with agents := [(.host, { AgentRec.atRest with stopped := true })] }
    (s.agent .host).stopped = true ∧ ∃ t, runEvent (.post .i2c) s = .next t := ⟨rfl, _, rfl⟩
theorem witness_LatchesChangeOnlyAtPerformance :
    let s : State := { bare with pend := ⟨[0x7], []⟩, schedule := [.post .i2c] }
    ∃ t, step s = .next t ∧ t.dir.get .i2c .clk ≠ s.dir.get .i2c .clk ∧ t.out.get .i2c .clk ≠ s.out.get .i2c .clk :=
  ⟨_, rfl, by decide, by decide⟩
theorem witness_InputLatchChangesOnlyAtCapture :
    let s : State := { stretched with pend := ⟨[0], []⟩, schedule := [.post .i2c] }
    ∃ t, step s = .next t ∧ t.inl.get .i2c .clk ≠ s.inl.get .i2c .clk := ⟨_, rfl, by decide⟩
theorem witness_WireStateChangesOnlyByItsSteps :
    let s : State := { high with schedule := [.peer .i2c .clk true] }
    ∃ t, step s = .next t ∧ t.peerLow.get .i2c .clk ≠ s.peerLow.get .i2c .clk ∧
      t.settled.get .i2c .clk ≠ s.settled.get .i2c .clk := ⟨_, rfl, by decide, by decide⟩
/-- A call of `CLOSE`, a call of `DETACH`, a `CLOSE` that held, and the `CLOSE` a `DETACH` ends with. -/
theorem witness_WindowChangesOnlyByOpenAndClose :
    ∀ x ∈ [(Event.request .host (.call .close), Machine.Task.none), (.request .host (.call .detach), .none),
        (.micro .host, .waiting .close), (.micro .host, .detach [])],
      let s : State := { bare with agents := if x.2 = .none then [] else engagedHost x.2, schedule := [x.1] }
      ∃ t, step s = .next t ∧ t.win ≠ s.win := by
  intro x hx
  simp only [List.mem_cons, List.not_mem_nil, or_false] at hx
  rcases hx with rfl | rfl | rfl | rfl <;> exact ⟨_, rfl, by decide⟩
theorem witness_StepKeepsInv :
    let s : State := { up with pend := ⟨[0x7], []⟩, agents := busyHost (.setClock false) .i2c 1 none, schedule := [.post .i2c] }
    s.Inv ∧ ∃ t, step s = .next t :=
  ⟨up_inv _ (by decide) _ (by decide) (by simp [busyHost, agentWf, seqWf, AgentRec.atRest, microOps]) _, _, rfl⟩
/-- An `ATTACH` between two primitives, with a `CLOSE` by another agent scheduled. -/
theorem witness_StepKeepsAttachWindow :
    let s : State := { quiet with win := bare.win, pend := ⟨[], []⟩, agents := engagedHost (.attach .initDdcClk) }
    s.Inv ∧ s.AttachWindow ∧ ∃ t, step s = .next t :=
  ⟨noBus_inv _ (.inl rfl) _ (by decide) (.inl rfl) _ (by decide) (by simp [engagedHost, agentWf, AgentRec.atRest]),
    fun _ _ _ _ => rfl, _, rfl⟩
theorem witness_MachineNeverStops :
    let s : State := { up with pend := ⟨[], []⟩, agents := [], schedule := [.request .host (.acc 32 0x200000000000)] }
    s.Inv ∧ step s = .refused (.undecodable .beyondPacking) :=
  ⟨up_inv _ (by decide) _ (by decide) (by intro x h; cases h) _, rfl⟩
theorem witness_PrimitivesStartOnRegisteredBuses :
    (up.agent up.actor = .atRest ∧ ∃ x ∈ up.buses, x.bus = .ddc) ∧
    (bare.agent bare.actor = .atRest ∧ ∀ x ∈ bare.buses, x.bus ≠ .i2c) ∧
    (let s : State := { up with agents := busyHost (.setClock true) .i2c 1 none }
     s.agent s.actor ≠ .atRest ∧ (s.agent s.actor).stopped = false) := by decide
/-- At the first micro-step, at a held read, at the return, at the return inside an `ATTACH`, and at a fault. -/
theorem witness_MicroStepsAdvanceByOne :
    (∀ x ∈ [(0, none, []), (1, none, [(0x7 : Word)]), (2, some (0 : Word), [])],
      let s : State := { up with pend := ⟨x.2.2, []⟩, agents := busyHost (.setClock false) .i2c x.1 x.2.1, schedule := [] }
      s.Inv ∧ (s.agent .host).seq = .busy (.setClock false) .i2c x.1 x.2.1 ∧ (s.agent .host).stopped = false ∧
      ∃ t, runEvent (.micro .host) s = .next t) ∧
    (let s : State := { quiet with win := bare.win, pend := ⟨[], []⟩, agents := [(.host, { AgentRec.atRest with
       seq := .busy (.setData true) .ddc 2 (some 0), task := .attach .initDdcDat })] }
     s.Inv ∧ (s.agent .host).seq = .busy (.setData true) .ddc 2 (some 0) ∧ (s.agent .host).stopped = false ∧
       ∃ t, runEvent (.micro .host) s = .next t ∧ t.agent .host = { AgentRec.atRest with task := .attach .registerI2c }) ∧
    let s : State := { quiet with win := quiet.win, pend := ⟨[], []⟩, agents := busyHost .getData .ddc 0 none }
    s.Inv ∧ (s.agent .host).seq = .busy .getData .ddc 0 none ∧ (s.agent .host).stopped = false ∧
      ∃ t, runEvent (.micro .host) s = .next t ∧ (t.agent .host).stopped = true := by
  refine ⟨?_, ⟨noBus_inv _ (.inl rfl) _ (by decide) (.inl rfl) _ (by decide)
      (by simp [agentWf, seqWf, AgentRec.atRest, microOps, AttachStage.prim]), rfl, rfl, _, rfl, rfl⟩,
    noBus_inv _ (.inr rfl) _ (by decide) (.inr rfl) _ (by decide)
      (by simp [busyHost, agentWf, seqWf, AgentRec.atRest, microOps]), rfl, rfl, _, rfl, rfl⟩
  intro x hx
  simp only [List.mem_cons, List.not_mem_nil, or_false] at hx
  rcases hx with rfl | rfl | rfl <;>
    exact ⟨up_inv _ (by decide) _ (by decide) (by simp [busyHost, agentWf, seqWf, AgentRec.atRest, microOps]) _, rfl, rfl, _, rfl⟩
theorem witness_PrimitivesStayOnTheirBus :
    let s : State := { up with agents := busyHost .getData .ddc 1 none }
    (s.agent .host).seq = .busy .getData .ddc 1 none ∧ ∃ t, runEvent (.micro .host) s = .next t :=
  ⟨rfl, runs (by decide +kernel)⟩

/-- Up, with a write to the data line still pending. -/
def queued : State := { up with pend := ⟨[0x700], []⟩, agents := [], schedule := [] }

theorem queued_inv : queued.Inv := up_inv ⟨[0x700], []⟩ (by decide) [] (by decide) (by intro x h; cases h) []

theorem witness_SetPrimitiveDrivesItsLine :
    queued.Inv ∧ queued.agent .host = .atRest ∧ queued.win.status = .mapped ∧ (∃ x ∈ queued.buses, x.bus = .i2c) ∧
    ∀ w ∈ queued.pend.get .i2c, touches .clk w = false :=
  ⟨queued_inv, rfl, rfl, ⟨logicalBus .i2c, by decide, rfl⟩,
    (List.forall_mem_singleton (a := (0x700 : Word)) (p := fun w => touches .clk w = false)).2 (by decide)⟩
theorem witness_GetPrimitiveSamplesItsLine :
    (high.Inv ∧ high.agent .host = .atRest ∧ high.win.status = .mapped ∧ (∃ x ∈ high.buses, x.bus = .i2c) ∧
      (∀ w ∈ high.pend.get .i2c, touches .clk w = false) ∧ high.level .i2c .clk = .one) ∧
    (stretched.Inv ∧ stretched.agent .host = .atRest ∧ stretched.win.status = .mapped ∧
      (∃ x ∈ stretched.buses, x.bus = .i2c) ∧ (∀ w ∈ stretched.pend.get .i2c, touches .clk w = false) ∧
      stretched.peerLow.get .i2c .clk = true) :=
  ⟨⟨high_inv, rfl, rfl, ⟨logicalBus .i2c, by decide, rfl⟩, fun w h => (by cases h), by decide⟩,
   ⟨stretched_inv, rfl, rfl, ⟨logicalBus .i2c, by decide, rfl⟩, fun w h => (by cases h), by decide⟩⟩
/-- Is the agent at micro-step `k` of this primitive? -/
def atMicroStep (p : Prim) (b : Bus) (k : Nat) (q : SeqState) : Bool :=
  match q with
  | .busy p' b' k' _ => decide (p' = p) && decide (b' = b) && decide (k' = k)
  | .idle            => false

theorem busy_of_atMicroStep {p : Prim} {b : Bus} {k : Nat} {q : SeqState} (h : atMicroStep p b k q = true) :
    ∃ r, q = .busy p b k r := by
  cases q with
  | idle => cases h
  | busy p' b' k' r =>
    simp only [atMicroStep, Bool.and_eq_true, decide_eq_true_eq] at h
    obtain ⟨⟨rfl, rfl⟩, rfl⟩ := h
    exact ⟨r, rfl⟩

/-- Every write of a trace is one the test accepts. -/
def writesAll (f : AgentId → Word → Bool) (trace : List Obs) : Bool :=
  trace.all fun o =>
    match o with
    | .write a _ w => f a w
    | .perform _ _ | .read _ _ _ | .returned _ _ | .refused _ _ => true

theorem write_of_writesAll {f : AgentId → Word → Bool} {trace : List Obs} (h : writesAll f trace = true)
    {a : AgentId} {off : Nat} {w : Word} (hm : .write a off w ∈ trace) : f a w = true := List.all_eq_true.1 h _ hm

theorem witness_SetHighLeavesLineHigh :
    ∃ (t : State) (new : List Obs) (r : Option Word),
      high.Inv ∧ high.agent .host = .atRest ∧ high.peerLow.get .i2c .clk = false ∧
      (∀ w ∈ high.pend.get .i2c, touches .clk w = false) ∧
      runAll [.request .host (.call (setInstr .clk true .i2c)), .micro .host, .post .i2c, .micro .host] high = .next t ∧
      t.trace = new ++ high.trace ∧
      (∀ a' w, .write a' (Config.off .i2c) w ∈ new → touches .clk w = true → a' = .host ∧ w = setWord .clk true) ∧
      (t.agent .host).seq = .busy (setPrim .clk true) .i2c 2 r := by
  have h : nextSatisfies (fun t => writesAll (fun a w => decide (a = .host ∧ w = setWord .clk true)) t.trace &&
      atMicroStep (.setClock true) .i2c 2 (t.agent .host).seq)
      (runAll [.request .host (.call (setInstr .clk true .i2c)), .micro .host, .post .i2c, .micro .host] high) = true := by
    decide +kernel
  obtain ⟨t, ht, h⟩ := next_of_satisfies h
  rw [Bool.and_eq_true] at h
  obtain ⟨r, hr⟩ := busy_of_atMicroStep h.2
  exact ⟨t, t.trace, r, high_inv, rfl, rfl, fun w h => (by cases h), ht, (List.append_nil _).symm,
    fun a' w hm _ => of_decide_eq_true (write_of_writesAll h.1 hm), hr⟩

theorem witness_GetAfterReleaseReadsHigh :
    ∃ (t : State) (new : List Obs) (r : Option Word),
      high.Inv ∧ high.agent .host = .atRest ∧ high.level .i2c .clk = .one ∧
      (∀ w ∈ high.pend.get .i2c, touches .clk w = true → w = relWord .clk) ∧
      runAll [.request .host (.call (getInstr .clk .i2c)), .micro .host, .micro .host, .post .i2c, .post .i2c,
        .micro .host] high = .next t ∧
      t.trace = new ++ high.trace ∧
      (∀ a' w, .write a' (Config.off .i2c) w ∈ new → touches .clk w = true → w = relWord .clk) ∧
      (t.agent .host).seq = .busy (getPrim .clk) .i2c 3 r := by
  have h : nextSatisfies (fun t => writesAll (fun _ w => decide (touches .clk w = true → w = relWord .clk)) t.trace &&
      atMicroStep .getClock .i2c 3 (t.agent .host).seq)
      (runAll [.request .host (.call (getInstr .clk .i2c)), .micro .host, .micro .host, .post .i2c, .post .i2c,
        .micro .host] high) = true := by
    decide +kernel
  obtain ⟨t, ht, h⟩ := next_of_satisfies h
  rw [Bool.and_eq_true] at h
  obtain ⟨r, hr⟩ := busy_of_atMicroStep h.2
  exact ⟨t, t.trace, r, high_inv, rfl, by decide, fun w h => (by cases h), ht, (List.append_nil _).symm,
    fun a' w hm => of_decide_eq_true (write_of_writesAll h.1 hm), hr⟩

/-- A fair run: the host returns from a `SET_CLOCK`, and then goes on asking for a step it has not. -/
def fairStates (n : Nat) : State :=
  { up with agents := if n = 0 then busyHost (.setClock true) .i2c 2 (some 0) else [], schedule := [] }

theorem witness_PrimitiveEndsInFairRun :
    FairRun fairStates (fun _ => .micro .host) ∧ (fairStates 0).Inv ∧
    ((fairStates 0).agent .host).seq = .busy (.setClock true) .i2c 2 (some 0) ∧
    ∀ n, ((fairStates n).pend.get .i2c).length < ((fairStates (n + 1)).pend.get .i2c).length →
      (fun _ => Event.micro .host) n = Event.micro .host := by
  refine ⟨⟨?_, ?_, ?_, ?_⟩, ?_, rfl, fun n _ => rfl⟩
  · intro n
    cases n <;> rfl
  · intro b n h
    exact absurd (by cases b <;> rfl) (h n (Nat.le_refl n))
  · intro b l n h
    have h0 := h n (Nat.le_refl n)
    have hd : settleEnabled b l (fairStates n) = false := by cases b <;> cases l <;> rfl
    exact absurd (hd.symm.trans h0) (by decide)
  · intro a n h
    cases a with
    | host => exact ⟨n, Nat.le_refl n, rfl⟩
    | caller m =>
      exfalso
      refine h n (Nat.le_refl n) ?_
      cases n <;> rfl
  · exact up_inv ⟨[], []⟩ (by decide) _ (by decide) (by simp [busyHost, agentWf, seqWf, AgentRec.atRest, microOps]) []

theorem witness_WindowAddressRoundsDown :
    16 ≤ 16 ∧ 2 ^ 16 ≤ 0xB000 + 0x5000 ∧ 0xAFFF + 0x5000 < 2 ^ 16 := by decide
theorem witness_OpenAndAttachMapTheWindow :
    quiet.agent quiet.actor = .atRest ∧ quiet.win.status ≠ .mapped ∧ 0 + 0x5000 < 2 ^ Config.physAddrWidth ∧
    2 ^ Config.physAddrWidth ≤ (2 ^ Config.physAddrWidth - 0x5000) + 0x5000 := by
  have h : 2 ^ 16 ≤ 2 ^ Config.physAddrWidth := Nat.pow_le_pow_right (by decide) (Nat.le_add_right 16 _)
  exact ⟨rfl, by decide, by omega, by omega⟩
theorem witness_SecondOpenFaults : bare.agent bare.actor = .atRest ∧ bare.win.status = .mapped := by decide
theorem witness_CloseUnmapsTheWindow :
    (quiet.agent quiet.actor = .atRest ∧ quiet.win.status ≠ .mapped) ∧
    (up.agent up.actor = .atRest ∧ up.win.status = .mapped ∧ up.buses ≠ []) ∧
    (let s : State := { bare with agents := busyHost .getClock .i2c 1 none, actor := .caller 0 }
     s.agent s.actor = .atRest ∧ s.win.status = .mapped ∧ s.busyAgents ≠ []) ∧
    (let s : State := { bare with pend := ⟨[], [0x7]⟩ }
     s.agent s.actor = .atRest ∧ s.win.status = .mapped ∧ s.buses = [] ∧ s.busyAgents = [] ∧ s.pend.get .ddc ≠ []) ∧
    (bare.agent bare.actor = .atRest ∧ bare.win.status = .mapped ∧ bare.buses = [] ∧ bare.busyAgents = [] ∧
      bare.pend.get .i2c = [] ∧ bare.pend.get .ddc = []) := by decide
theorem witness_HeldCloseCompletesWhenDrained :
    ∀ q ∈ [[], [(0x7 : Word)]],
      let s : State := { bare with pend := ⟨q, []⟩, agents := engagedHost (.waiting .close) }
      s.Inv ∧ s.win.status = .mapped ∧ s.buses = [] ∧ s.busyAgents = [] ∧
      s.agent .host = { AgentRec.atRest with task := .waiting .close } ∧ s.pend.get .i2c = q ∧ s.pend.get .ddc = [] := by
  intro q hq
  refine ⟨inv_of_parts (.inl rfl) (show agentsWf (engagedHost (.waiting .close)) = true by decide) ?_ ?_
      (by intro b l; cases b <;> cases l <;> rfl) rfl rfl,
    rfl, rfl, rfl, rfl, rfl, rfl⟩
  · simp [engagedHost, agentWf, AgentRec.atRest]
  · simp only [List.mem_cons, List.not_mem_nil, or_false] at hq
    rcases hq with rfl | rfl <;> decide
theorem witness_BusyAgentsAreThoseInPrimitives :
    (high.Inv ∧ high.attachTurn = none) ∧
    let s : State := { quiet with win := bare.win, pend := ⟨[], []⟩, agents := engagedHost (.attach .initI2cClk) }
    s.Inv ∧ s.attachTurn = some .host :=
  ⟨⟨high_inv, rfl⟩,
    noBus_inv _ (.inl rfl) _ (by decide) (.inl rfl) _ (by decide) (by simp [engagedHost, agentWf, AgentRec.atRest]), rfl⟩
theorem witness_AttachInitialisesAndRegisters :
    let s : State := { quiet with win := bare.win, pend := ⟨[], []⟩, agents := engagedHost (.attach .initI2cClk) }
    s.Inv ∧ s.win.status = .mapped ∧ (∀ b, s.pend.get b = []) ∧
    s.agent .host = { AgentRec.atRest with task := .attach .initI2cClk } :=
  ⟨noBus_inv _ (.inl rfl) _ (by decide) (.inl rfl) _ (by decide) (by simp [engagedHost, agentWf, AgentRec.atRest]), rfl,
    by intro b; cases b <;> rfl, rfl⟩
theorem witness_AttachStepNeverFaults :
    let s : State := { quiet with win := bare.win, pend := ⟨[], []⟩, agents := [(.host, { AgentRec.atRest with
      seq := .busy (.setData true) .ddc 0 none, task := .attach .initDdcDat })] }
    s.Inv ∧ s.AttachWindow ∧ (s.agent .host).task = .attach .initDdcDat ∧ (s.agent .host).stopped = false ∧
      ∃ t, runEvent (.micro .host) s = .next t :=
  ⟨noBus_inv _ (.inl rfl) _ (by decide) (.inl rfl) _ (by decide)
    (by simp [agentWf, seqWf, AgentRec.atRest, microOps, AttachStage.prim]), fun _ _ _ _ => rfl, rfl, rfl, _, rfl⟩

/-- Another agent's step, and then a whole primitive of the idle initialisation; its start is the machine's own. -/
def initEvents (e : Event) : List Event := [e, .micro .host, .post .i2c, .micro .host, .micro .host]

/-- A caller's `CLOSE` scheduled before the primitive starts; and a run in which nobody closes. -/
theorem witness_AttachNeverFaults :
    let s : State := { quiet with win := bare.win, pend := ⟨[], []⟩, agents := engagedHost (.attach .initI2cClk) }
    s.Inv ∧ s.AttachWindow ∧ (s.agent .host).task = .attach .initI2cClk ∧ (s.agent .host).stopped = false ∧
    (∃ t, Host.Core.run core 6 { s with schedule := initEvents (.request (.caller 0) (.call .close)) } = .next t ∧
      (t.agent .host).task = .attach .initI2cDat ∧ (t.agent (.caller 0)).stopped = true) ∧
    (∀ a, (s.agent a).task ≠ .waiting .close ∧ ∀ rem, (s.agent a).task ≠ .detach rem) ∧
    (∀ e ∈ initEvents (.micro .host), ∀ a, e ≠ .request a (.call .close) ∧ e ≠ .request a (.call .detach)) ∧
    ∃ t, runAll (initEvents (.micro .host)) s = .next t := by
  refine ⟨noBus_inv _ (.inl rfl) _ (by decide) (.inl rfl) _ (by decide) (by simp [engagedHost, agentWf, AgentRec.atRest]),
    fun _ _ _ _ => rfl, rfl, rfl, ?_, ?_, by simp [initEvents], runs (by decide +kernel)⟩
  · have h : nextSatisfies (fun t => decide ((t.agent .host).task = .attach .initI2cDat) && (t.agent (.caller 0)).stopped)
        (Host.Core.run core 6 { bare with
          agents := engagedHost (.attach .initI2cClk)
          schedule := initEvents (.request (.caller 0) (.call .close)) }) = true := by decide +kernel
    obtain ⟨t, ht, h⟩ := next_of_satisfies h
    rw [Bool.and_eq_true] at h
    exact ⟨t, ht, of_decide_eq_true h.1, h.2⟩
  · intro a
    by_cases h : AgentId.host = a <;> simp [State.agent, engagedHost, lookupAgent, h, AgentRec.atRest]
theorem witness_DetachUnregistersLastBusFirst :
    (up.agent up.actor = .atRest ∧ up.buses = [logicalBus .i2c] ++ [logicalBus .ddc]) ∧
    (quiet.agent quiet.actor = .atRest ∧ quiet.buses = [] ∧ quiet.win.status ≠ .mapped) ∧
    (let s : State := { bare with agents := busyHost .getClock .i2c 1 none, actor := .caller 0 }
     s.agent s.actor = .atRest ∧ s.buses = [] ∧ s.win.status = .mapped ∧ s.busyAgents ≠ []) ∧
    (let s : State := { bare with pend := ⟨[], [0x7]⟩ }
     s.agent s.actor = .atRest ∧ s.buses = [] ∧ s.win.status = .mapped ∧ s.busyAgents = [] ∧ s.pend.get .ddc ≠ []) ∧
    (bare.agent bare.actor = .atRest ∧ bare.buses = [] ∧ bare.win.status = .mapped ∧ bare.busyAgents = [] ∧
      bare.pend.get .i2c = [] ∧ bare.pend.get .ddc = []) := by decide
/-- With a bus left, with no window, with an agent busy, with a write pending, and with nothing left. -/
theorem witness_DetachLaterSteps :
    ∀ x ∈ [(bare.win, ([] : List Word), [], [logicalBus .i2c]), (quiet.win, [], [], []),
        (bare.win, [], [(.caller 0, { AgentRec.atRest with seq := .busy .getClock .i2c 0 none })], []),
        (bare.win, [0x7], [], []), (bare.win, [], [], [])],
      let s : State := { quiet with win := x.1, pend := ⟨x.2.1, []⟩, agents := engagedHost (.detach x.2.2.2) ++ x.2.2.1 }
      s.Inv ∧ s.agent .host = { AgentRec.atRest with task := .detach x.2.2.2 } ∧ s.win = x.1 ∧ s.pend = ⟨x.2.1, []⟩ ∧
        s.buses = [] ∧ s.busyAgents = x.2.2.1.map Prod.fst := by
  intro x hx
  simp only [List.mem_cons, List.not_mem_nil, or_false] at hx
  rcases hx with rfl | rfl | rfl | rfl | rfl <;>
    exact ⟨noBus_inv _ (by decide) _ (by decide) (by decide) _ (by decide)
      (by simp [engagedHost, agentWf, seqWf, AgentRec.atRest, microOps]), rfl, rfl, rfl, rfl, rfl⟩
theorem witness_DetachTearsDownInReverse :
    let s : State := { up with pend := ⟨[], []⟩, agents := [], schedule := [] }
    s.Inv ∧ s.agent .host = .atRest ∧ s.win.status = .mapped ∧ s.buses = [logicalBus .i2c, logicalBus .ddc] ∧
    s.busyAgents = [] ∧ ∀ b, s.pend.get b = [] :=
  ⟨up_inv _ (by decide) _ (by decide) (by intro x h; cases h) _, rfl, rfl, rfl, rfl, by intro b; cases b <;> rfl⟩

end Sys2Proof.Tests
end

section
/-! SUPPORT. What the next step of the machine is: one equation per case of `step`, and what a request runs that decodes
to an operation (00_scope.md R17, 70_reset_and_hazards.md R291). With them the claim about a step. -/

namespace Sys2Proof.Machine

/-- The turn of an `ATTACH` (assumption log 29). -/
theorem step_of_attachTurn_some {s : State} {a : AgentId} (h : s.attachTurn = some a) :
    step s = runEvent (.micro a) s := by
  simp only [step, h]

theorem step_of_schedule_nil {s : State} (hturn : s.attachTurn = none) (hsched : s.schedule = []) :
    step s = .next s := by
  simp only [step, hturn, hsched]

theorem step_of_schedule_cons {s : State} {e : Event} {rest : List Event} (hturn : s.attachTurn = none)
    (hsched : s.schedule = e :: rest) : step s = runEvent e { s with schedule := rest } := by
  simp only [step, hturn, hsched]

@[simp] theorem runRequest_call (i : Instr) (s : State) : runRequest (.call i) s = exec i s := rfl

theorem runRequest_acc_of_decode_ok {w : AccWord} {i : Instr} (h : decode w = .ok i) (s : State) :
    runRequest (.acc Config.wordBits w) s = exec i s := by
  simp only [runRequest, ne_eq, not_true_eq_false, if_false, h]

/-- Where no `ATTACH` has the turn, a scheduled request that amounts to `i` in every state is `exec` of `i` by the
requesting agent. -/
theorem step_of_request {s : State} {a : AgentId} {r : Request} {rest : List Event} {i : Instr}
    (hturn : s.attachTurn = none) (hsched : s.schedule = .request a r :: rest)
    (hrun : ∀ t, runRequest r t = exec i t) : step s = exec i { s with schedule := rest, actor := a } :=
  calc step s = runEvent (.request a r) { s with schedule := rest } := step_of_schedule_cons hturn hsched
    _ = runRequest r { s with schedule := rest, actor := a } := rfl
    _ = exec i { s with schedule := rest, actor := a } := hrun _

/-- Settles O8, by the cases of `step`: a scheduled access, a scheduled call, nothing scheduled, and the turn of an
`ATTACH`. -/
theorem stepRunsDecodedInstruction : Obligations.StepRunsDecodedInstruction := by
  intro s a rest i
  refine ⟨fun hturn => ⟨?access, ?call, ?idle⟩, ?turn⟩
  case access =>
    intro w hsched hdec
    exact step_of_request hturn hsched (runRequest_acc_of_decode_ok hdec)
  case call =>
    intro hsched
    exact step_of_request hturn hsched (runRequest_call i)
  case idle => exact step_of_schedule_nil hturn
  case turn => exact step_of_attachTurn_some

end Sys2Proof.Machine
end

section
/-! SUPPORT. The invariant of the machine (10_state.md R40, R43, R46): one rule for each update of State that a step is
made of, then for each move of an agent and each event. With it the claim that every step keeps the invariant. -/

namespace Sys2Proof.Machine

/-! ### The window's base (40_register_window.md R141) -/

/-- The mask clears the twelve bits of a page offset. -/
theorem pageMask_mod_pageSize {width : Nat} (hw : 12 ≤ width) : pageMask width % 2 ^ 12 = 0 := by
  obtain ⟨c, hc⟩ : 2 ^ 12 ∣ 2 ^ width := Nat.pow_dvd_pow 2 hw
  have hones : (2 ^ width - 1) % 2 ^ 12 = 2 ^ 12 - 1 := by
    have := Nat.two_pow_pos width
    omega
  rw [pageMask, Nat.xor_mod_two_pow, hones]
  decide

theorem windowAddress_page {width phys address : Nat} (hw : 12 ≤ width)
    (h : windowAddress width phys = (true, address)) :
    address % Config.pageSize = 0 ∧ address + Config.windowLen ≤ 2 ^ width := by
  simp only [windowAddress] at h
  split at h
  · cases h
  rename_i hlt
  cases h
  have hpage : ((phys + Config.ioControlOffset) &&& pageMask width) % 2 ^ 12 = 0 := by
    rw [Nat.and_mod_two_pow, pageMask_mod_pageSize hw, Nat.and_zero]
  have hle := @Nat.and_le_left (phys + Config.ioControlOffset) (pageMask width)
  obtain ⟨c, hc⟩ : 2 ^ 12 ∣ 2 ^ width := Nat.pow_dvd_pow 2 hw
  refine ⟨hpage, ?_⟩
  simp only [Config.windowLen]
  omega

theorem windowWf_mapped {phys address : Nat} (h : windowAddress Config.physAddrWidth phys = (true, address)) :
    windowWf { status := .mapped, base := some address } :=
  windowAddress_page (Nat.le_trans (by decide) (Nat.le_add_right 16 _)) h

/-! ### Agents' records -/

theorem agentWf_of_idle {r : AgentRec} (h : r.seq = .idle) : agentWf r := by
  unfold agentWf
  cases ht : r.task <;> simp [h]

theorem agentWf_of_busy {r : AgentRec} {p : Prim} {b : Bus} {k : Nat} {v : Option Word} (h : r.seq = .busy p b k v) :
    agentWf r ↔
      (r.task = .none ∨ ∃ st, r.task = .attach st ∧ AttachStage.prim st = some (p, b)) ∧ seqWf p k v := by
  unfold agentWf
  cases ht : r.task <;> simp [h]

/-- A primitive's next step may have another index and word, if these still agree. -/
theorem agentWf_advance {r : AgentRec} {p : Prim} {b : Bus} {k k' : Nat} {v v' : Option Word}
    (h : agentWf r) (hq : r.seq = .busy p b k v) (hk : seqWf p k' v') :
    agentWf { r with seq := .busy p b k' v' } :=
  (agentWf_of_busy rfl).2 ⟨((agentWf_of_busy hq).1 h).1, hk⟩

theorem seqWf_start (p : Prim) : seqWf p 0 none := by
  cases p <;> simp [seqWf, microOps]

/-- The read is the last access of every primitive (41_line_driver.md R189 to R192). -/
theorem microOps_read_iff {p : Prim} {k : Nat} (hk : k < (microOps p).length) :
    (microOps p)[k]? = some .read ↔ k + 1 = (microOps p).length := by
  cases p <;>
    · simp only [microOps, List.length_cons, List.length_nil] at hk ⊢
      interval_cases k <;> simp

theorem seqWf_write {p : Prim} {k : Nat} {v : Option Word} {w : Word} (h : seqWf p k v)
    (ho : (microOps p)[k]? = some (.write w)) : seqWf p (k + 1) v := by
  obtain ⟨hk, -⟩ := List.getElem?_eq_some_iff.1 ho
  have hlast : k + 1 ≠ (microOps p).length := fun he => by simpa [ho] using (microOps_read_iff hk).2 he
  refine ⟨hk, ?_⟩
  rw [h.2]
  omega

theorem seqWf_read {p : Prim} {k : Nat} {w : Word} (ho : (microOps p)[k]? = some .read) :
    seqWf p (k + 1) (some w) := by
  obtain ⟨hk, -⟩ := List.getElem?_eq_some_iff.1 ho
  exact ⟨hk, by simpa using (microOps_read_iff hk).1 ho⟩

/-! ### Each update keeps the invariant -/

/-- An agent may get any record that makes sense and does not wake it. -/
theorem State.Inv.setAgent {s : State} (h : s.Inv) {a : AgentId} {r : AgentRec} (hr : agentWf r)
    (hs : (s.agent a).stopped = true → r.stopped = true) : (s.setAgent a r).Inv :=
  { h with
    agentList := insertAgent_wf a r h.agentList
    agentRecs := fun a' => by
      by_cases he : a' = a
      · rw [he, setAgent_agent_self s a r h.agentList]; exact hr
      · rw [setAgent_agent_ne s r he]; exact h.agentRecs a'
    faultStops := fun f hf => by
      by_cases he : f.agent = a
      · rw [he, setAgent_agent_self s a r h.agentList]; exact hs (he ▸ h.faultStops f hf)
      · rw [setAgent_agent_ne s r he]; exact h.faultStops f hf }

theorem State.Inv.setSeq {s : State} (h : s.Inv) {q : SeqState} (hr : agentWf { s.me with seq := q }) :
    (s.setSeq q).Inv := h.setAgent hr id

theorem State.Inv.setTask {s : State} (h : s.Inv) {k : Task} (hr : agentWf { s.me with task := k }) :
    (s.setTask k).Inv := h.setAgent hr id

theorem State.Inv.stop {s : State} (h : s.Inv) : (s.setMe { s.me with stopped := true }).Inv :=
  h.setAgent (h.agentRecs s.actor) fun _ => rfl

theorem State.Inv.raiseFault {s : State} (h : s.Inv) (r : FaultReason) : (raiseFault r s).Inv :=
  { h.stop with
    faultSet := addFault_nodup h.faultSet
    faultStops := fun f hf => by
      obtain rfl | hf := mem_addFault.1 hf
      · exact congrArg AgentRec.stopped (setAgent_agent_self s s.actor _ h.agentList)
      · exact h.stop.faultStops f hf }

theorem State.Inv.refuseOp {s : State} (h : s.Inv) (r : RefusalReason) : (refuseOp r s).Inv := { h.stop with }

theorem State.Inv.withActor {s : State} (h : s.Inv) (a : AgentId) : ({ s with actor := a } : State).Inv := { h with }

theorem State.Inv.withSchedule {s : State} (h : s.Inv) (es : List Event) : ({ s with schedule := es } : State).Inv :=
  { h with }

theorem State.Inv.withAttached {s : State} (h : s.Inv) (v : Bool) : ({ s with attached := v } : State).Inv := { h with }

theorem State.Inv.deliver {s : State} (h : s.Inv) (r : Result) : (deliver r s).Inv := { h with }

theorem State.Inv.noteRead {s : State} (h : s.Inv) (off : Nat) (v : Word) : (noteRead off v s).Inv := { h with }

theorem State.Inv.withBuses {s : State} (h : s.Inv) {l : List LogicalBus} (hl : ∀ x ∈ l, x.name = Config.busName x.bus) :
    ({ s with buses := l } : State).Inv := { h with names := hl }

theorem State.Inv.unregister {s : State} (h : s.Inv) (x : LogicalBus) :
    ({ s with buses := s.buses.filter fun y => y ≠ x } : State).Inv :=
  h.withBuses fun y hy => h.names y (List.mem_of_mem_filter hy)

theorem State.Inv.openWindow {s : State} (h : s.Inv) {phys address : Nat}
    (ha : windowAddress Config.physAddrWidth phys = (true, address)) :
    ({ s with win := { status := .mapped, base := some address } } : State).Inv :=
  { h with window := windowWf_mapped ha, drained := fun hn => absurd rfl hn }

theorem State.Inv.closeWindow {s : State} (h : s.Inv) (hp : ∀ b, s.pend.get b = []) :
    ({ s with win := { status := .closed, base := none } } : State).Inv :=
  { h with window := rfl, drained := fun _ => hp }

theorem State.Inv.postWrite {s : State} (h : s.Inv) (b : Bus) (off : Nat) {w : Word} (hm : s.win.status = .mapped)
    (hw : bitSet w Config.reservedMask = false) : (postWrite b off w s).Inv :=
  { h with
    legalWords := fun b' w' hw' => by
      by_cases he : b' = b
      · subst he
        rw [postWrite_pend, PerBus.get_set_self, List.mem_append, List.mem_singleton] at hw'
        obtain hw' | rfl := hw'
        · exact h.legalWords b' w' hw'
        · exact hw
      · rw [postWrite_pend, PerBus.get_set_ne _ _ he] at hw'
        exact h.legalWords b' w' hw'
    drained := fun hn => absurd hm hn }

/-! ### Every step keeps the invariant -/

theorem logicalBus_name (b : Bus) : (logicalBus b).name = Config.busName (logicalBus b).bus := rfl

theorem seq_of_atDetachClose {s : State} (h : s.atDetachClose) : s.me.seq = .idle := by
  obtain ⟨hr, -⟩ | ⟨hq, -, -⟩ := h
  · rw [hr]; rfl
  · exact hq

theorem Move.inv {s t : State} (hm : Move s t) (h : s.Inv) : t.Inv := by
  have hme : agentWf s.me := h.agentRecs s.actor
  cases hm with
  | stay => exact h
  | fault r => exact h.raiseFault r
  | refuse r => exact h.refuseOp r
  | write b w _ hm hw => exact h.postWrite b _ hm hw
  | read b => exact (h.noteRead _ _).deliver _
  | flush b => exact h.noteRead _ _
  | hold op hr => exact h.setTask (agentWf_of_idle (by rw [hr]; rfl))
  | start p b hr =>
    exact h.setSeq ((agentWf_of_busy rfl).2 ⟨.inl (congrArg AgentRec.task hr), seqWf_start p⟩)
  | openOk _ _ _ _ ha => exact (h.openWindow ha).deliver _
  | mapError => exact h.deliver _
  | attachOk _ _ hr _ ha => exact (h.openWindow ha).setTask (agentWf_of_idle (congrArg AgentRec.seq hr))
  | close _ _ _ _ hp => exact h.closeWindow hp
  | detachFirst x _ hr => exact (h.unregister x).setTask (agentWf_of_idle (congrArg AgentRec.seq hr))
  | primWrite p b k r w hq _ ho hm hw =>
    exact (h.postWrite b _ hm hw).setSeq (agentWf_advance hme hq (seqWf_write ((agentWf_of_busy hq).1 hme).2 ho))
  | primRead p b k r hq _ ho => exact (h.noteRead _ _).setSeq (agentWf_advance hme hq (seqWf_read ho))
  | primReturn => exact h.setSeq (agentWf_of_idle rfl)
  | primResult => exact (h.setSeq (agentWf_of_idle rfl)).deliver _
  | attachStart st p b _ _ ht hst => exact h.setSeq ((agentWf_of_busy rfl).2 ⟨.inr ⟨st, ht, hst⟩, seqWf_start p⟩)
  | attachReturn => exact h.setAgent (agentWf_of_idle rfl) id
  | firstBus hq =>
    refine (h.withBuses fun x hx => ?_).setTask (agentWf_of_idle hq)
    rw [List.mem_singleton.1 hx]
    rfl
  | secondBus hq =>
    refine (h.withBuses fun x hx => ?_).setTask (agentWf_of_idle hq)
    obtain hx | hx := List.mem_append.1 hx
    · exact h.names x hx
    · rw [List.mem_singleton.1 hx]
      rfl
  | attachDone hq => exact ((h.withAttached true).deliver .ok).setTask (agentWf_of_idle hq)
  | retryRead _ hq => exact ((h.noteRead _ _).deliver _).setTask (agentWf_of_idle hq)
  | retryFlush _ hq => exact (h.noteRead _ _).setTask (agentWf_of_idle hq)
  | retryClose hq _ _ _ _ _ hp => exact (h.closeWindow hp).setTask (agentWf_of_idle hq)
  | retryCloseNoop hq => exact h.setTask (agentWf_of_idle hq)
  | detachNext x _ hq => exact (h.unregister x).setTask (agentWf_of_idle hq)
  | detachHold hd => exact h.setTask (agentWf_of_idle (seq_of_atDetachClose hd))
  | detachNoop hd => exact (h.withAttached false).setTask (agentWf_of_idle (seq_of_atDetachClose hd))
  | detachClose hd _ _ _ hp =>
    exact ((h.closeWindow hp).withAttached false).setTask (agentWf_of_idle (seq_of_atDetachClose hd))

theorem settleEnabled_iff {b : Bus} {l : Line} {s : State} :
    settleEnabled b l s = true ↔
      s.drive b l = .released ∧ s.peerLow.get b l = false ∧ s.settled.get b l = false := by
  simp [settleEnabled, and_assoc]

@[simp] theorem settleStep_drive (b : Bus) (l : Line) (s : State) : (settleStep b l s).drive = s.drive := rfl
@[simp] theorem settleStep_peerLow (b : Bus) (l : Line) (s : State) : (settleStep b l s).peerLow = s.peerLow := rfl

theorem settleStep_settled_get_self (b : Bus) (l : Line) (s : State) :
    (settleStep b l s).settled.get b l = (settleEnabled b l s || s.settled.get b l) :=
  PerLine.get_set_self _ b l _

theorem settleStep_settled_get_ne {b b' : Bus} {l l' : Line} (s : State) (h : ¬(b' = b ∧ l' = l)) :
    (settleStep b l s).settled.get b' l' = s.settled.get b' l' :=
  PerLine.get_set_ne _ _ h

/-- What is left in the queues after a performance was pending before. -/
theorem postStep_pend_sublist (b : Bus) (s : State) (b' : Bus) :
    ((postStep b s).pend.get b').Sublist (s.pend.get b') := by
  rw [postStep_pend, PerBus.get_set]
  split
  · next he => rw [he]; exact List.tail_sublist _
  · exact List.Sublist.refl _

theorem State.Inv.postStep {s : State} (h : s.Inv) (b : Bus) : (postStep b s).Inv where
  agentList := by rw [postStep_agents]; exact h.agentList
  agentRecs := fun a => by rw [State.agent, postStep_agents]; exact h.agentRecs a
  window := by rw [postStep_win]; exact h.window
  legalWords := fun b' w hw => h.legalWords b' w ((postStep_pend_sublist b s b').subset hw)
  drained := fun hn b' => by
    rw [postStep_win] at hn
    exact List.sublist_nil.1 (h.drained hn b' ▸ postStep_pend_sublist b s b')
  lines := fun b' l => by
    obtain ⟨-, he⟩ | ⟨w, rest, -, he⟩ := postStep_cases b s <;> rw [he]
    · exact h.lines b' l
    · rw [performWrite, performWith_settled_get]
      exact (settledOf_settledOf _ _ _).symm
  names := by rw [postStep_buses]; exact h.names
  faultSet := by rw [postStep_faults]; exact h.faultSet
  faultStops := fun f hf => by
    rw [postStep_faults] at hf
    rw [State.agent, postStep_agents]
    exact h.faultStops f hf

theorem State.Inv.peerStep {s : State} (h : s.Inv) (b : Bus) (l : Line) (low : Bool) : (peerStep b l low s).Inv :=
  { h with
    lines := fun b' l' => by
      rw [Machine.peerStep, lineUpdate_settled_get]
      exact (settledOf_settledOf _ _ _).symm }

theorem State.Inv.settleStep {s : State} (h : s.Inv) (b : Bus) (l : Line) : (settleStep b l s).Inv :=
  { h with
    lines := fun b' l' => by
      by_cases hl : b' = b ∧ l' = l
      · obtain ⟨rfl, rfl⟩ := hl
        rw [settleStep_settled_get_self]
        cases he : settleEnabled b' l' s with
        | false => exact h.lines b' l'
        | true =>
          obtain ⟨hd, hp, -⟩ := settleEnabled_iff.1 he
          rw [settleStep_drive, settleStep_peerLow, hd, hp]
          rfl
      · rw [settleStep_settled_get_ne s hl]
        exact h.lines b' l' }

theorem State.Inv.sampleStep {s : State} (h : s.Inv) (b : Bus) (l : Line) : (sampleStep b l s).Inv := { h with }

theorem runEvent_inv {e : Event} {s t : State} (h : s.Inv) (hr : runEvent e s = .next t) : t.Inv := by
  obtain ⟨a, -, hm⟩ | ⟨b, -, rfl⟩ | ⟨b, l, low, -, rfl⟩ | ⟨b, l, -, rfl⟩ | ⟨b, l, -, rfl⟩ := runEvent_cases hr
  · exact hm.inv (h.withActor a)
  · exact h.postStep b
  · exact h.peerStep b l low
  · exact h.settleStep b l
  · exact h.sampleStep b l

/-- Settles O37, by the cases of a step: the turn of an `ATTACH`, nothing scheduled, or the scheduled event. -/
theorem stepKeepsInv : Obligations.StepKeepsInv := by
  intro s t h hstep
  obtain ⟨a, -, hr⟩ | ⟨-, -, rfl⟩ | ⟨e, rest, -, -, hr⟩ := step_cases hstep
  · exact runEvent_inv h hr
  · exact h
  · exact runEvent_inv (h.withSchedule rest) hr

end Sys2Proof.Machine
end

section
/-! SUPPORT. Who writes each field of State: what a performed word leaves, and which step can change a latch, a peer or
settle bit, a fault or the refusal mark (10_state.md R34 to R37, R42, R46). With them the claims about these fields. -/

namespace Sys2Proof.Machine

/-! ### What a performance leaves (R37) -/

/-- Settles O11, field by field, by what a performance leaves in each latch; the frame holds by unfolding. -/
theorem performWriteUpdatesEnabledFields : Obligations.PerformWriteUpdatesEnabledFields := by
  intro s b w l t
  refine ⟨?dir, ?out, ?otherBus, ?settled, rfl, rfl, rfl, rfl, rfl, rfl, rfl, rfl, rfl, rfl, rfl⟩
  case dir => exact (performWith_dir_get _ b w s b l).trans (by simp)
  case out => exact (performWith_out_get _ b w s b l).trans (by simp)
  case otherBus =>
    intro b' hb
    refine ⟨?_, ?_, performWith_inl_get_ne _ w s l hb⟩
    · exact (performWith_dir_get _ b w s b' l).trans (if_neg fun h => hb h.1)
    · exact (performWith_out_get _ b w s b' l).trans (if_neg fun h => hb h.1)
  case settled => exact fun b' => performWith_settled_get _ b w s b' l

/-- A performance changes a direction latch only where its word enables it, to the word's direction bit. -/
theorem performWrite_dir_of_ne {b b' : Bus} {w : Word} {s : State} {l : Line}
    (h : (performWrite b' w s).dir.get b l ≠ s.dir.get b l) :
    b = b' ∧ w.getLsbD (lineBase l) = true ∧
      (performWrite b' w s).dir.get b l = some (if w.getLsbD (lineBase l + 1) then .output else .input) := by
  rw [performWrite, performWith_dir_get] at h ⊢
  split at h
  · next hen => exact ⟨hen.1, hen.2, if_pos hen⟩
  · exact absurd rfl h

/-- A performance changes an output latch only where its word enables it, to the word's value bit. -/
theorem performWrite_out_of_ne {b b' : Bus} {w : Word} {s : State} {l : Line}
    (h : (performWrite b' w s).out.get b l ≠ s.out.get b l) :
    b = b' ∧ w.getLsbD (lineBase l + 2) = true ∧
      (performWrite b' w s).out.get b l = some (w.getLsbD (lineBase l + 3)) := by
  rw [performWrite, performWith_out_get] at h ⊢
  split at h
  · next hen => exact ⟨hen.1, hen.2, if_pos hen⟩
  · exact absurd rfl h

/-- A performance changes the input latches of its own bus only. -/
theorem performWrite_inl_of_ne {b b' : Bus} {w : Word} {s : State} {l : Line}
    (h : (performWrite b' w s).inl.get b l ≠ s.inl.get b l) : b = b' :=
  not_not.1 fun hb => h (performWith_inl_get_ne _ w s l hb)

/-! ### Which step changes a latch or a line -/

/-- Every latch, peer bit and settle bit of the one state is that of the other. -/
def State.SameWires (s t : State) : Prop :=
  t.dir = s.dir ∧ t.out = s.out ∧ t.inl = s.inl ∧ t.peerLow = s.peerLow ∧ t.settled = s.settled

/-- A step leaves all latches and lines, or is a performance, or is a step of the environment. -/
theorem step_wires {s t : State} (h : step s = .next t) :
    s.SameWires t ∨
    (∃ b w rest, s.schedule.head? = some (.post b) ∧ s.pend.get b = w :: rest ∧
      t = performWrite b w { s with
        schedule := s.schedule.tail, pend := s.pend.set b rest, trace := .perform (Config.off b) w :: s.trace }) ∨
    (∃ b l low, s.schedule.head? = some (.peer b l low) ∧ t = peerStep b l low { s with schedule := s.schedule.tail }) ∨
    (∃ b l, s.schedule.head? = some (.settle b l) ∧ t = settleStep b l { s with schedule := s.schedule.tail }) ∨
    (∃ b l, s.schedule.head? = some (.sample b l) ∧ t = sampleStep b l { s with schedule := s.schedule.tail }) := by
  obtain ⟨a, -, hr⟩ | ⟨-, -, rfl⟩ | ⟨e, rest, -, hs, hr⟩ := step_cases h
  · exact .inl (microStep_move hr).latches
  · exact .inl ⟨rfl, rfl, rfl, rfl, rfl⟩
  rw [hs, List.head?_cons, List.tail_cons]
  obtain ⟨a, -, hm⟩ | ⟨b, rfl, rfl⟩ | ⟨b, l, low, rfl, rfl⟩ | ⟨b, l, rfl, rfl⟩ | ⟨b, l, rfl, rfl⟩ := runEvent_cases hr
  · exact .inl hm.latches
  · obtain ⟨-, he⟩ | ⟨w, ws, hp, he⟩ := postStep_cases b { s with schedule := rest }
    · rw [he]; exact .inl ⟨rfl, rfl, rfl, rfl, rfl⟩
    · exact .inr (.inl ⟨b, w, ws, rfl, hp, he⟩)
  · exact .inr (.inr (.inl ⟨b, l, low, rfl, rfl⟩))
  · exact .inr (.inr (.inr (.inl ⟨b, l, rfl, rfl⟩)))
  · exact .inr (.inr (.inr (.inr ⟨b, l, rfl, rfl⟩)))

/-- Settles O33: of the steps that touch a latch or a line, only a performance writes a direction or output latch. -/
theorem latchesChangeOnlyAtPerformance : Obligations.LatchesChangeOnlyAtPerformance := by
  refine ⟨fun b l => by cases b <;> cases l <;> exact ⟨rfl, rfl⟩, fun s t b l hstep => ?_⟩
  obtain ⟨hdir, hout, -⟩ | ⟨b', w, rest, hhead, hp, rfl⟩ | ⟨_, _, _, -, rfl⟩ | ⟨_, _, -, rfl⟩ | ⟨_, _, -, rfl⟩ :=
    step_wires hstep
  · exact ⟨fun h => absurd (by rw [hdir]) h, fun h => absurd (by rw [hout]) h⟩
  · constructor <;> intro h
    · obtain ⟨rfl, hen, hval⟩ := performWrite_dir_of_ne h
      exact ⟨w, rest, hhead, hp, hen, hval⟩
    · obtain ⟨rfl, hen, hval⟩ := performWrite_out_of_ne h
      exact ⟨w, rest, hhead, hp, hen, hval⟩
  all_goals exact ⟨fun h => absurd rfl h, fun h => absurd rfl h⟩

/-- A spontaneous sample changes the input latch of its own line only, and only on hardware that samples by itself. -/
theorem sampleStep_inl_of_ne {b b' : Bus} {l l' : Line} {s : State}
    (h : (sampleStep b' l' s).inl.get b l ≠ s.inl.get b l) :
    (b = b' ∧ l = l') ∧ Config.spontaneousSample = true := by
  have hline : b = b' ∧ l = l' := not_not.1 fun hl => h (PerLine.get_set_ne _ _ hl)
  refine ⟨hline, ?_⟩
  obtain ⟨rfl, rfl⟩ := hline
  by_contra hs
  exact h ((PerLine.get_set_self _ b l _).trans (if_neg hs))

/-- Settles O34: of the steps that touch a latch or a line, a performance and a spontaneous sample write input latches. -/
theorem inputLatchChangesOnlyAtCapture : Obligations.InputLatchChangesOnlyAtCapture := by
  intro s t b l hstep h
  obtain ⟨-, -, hinl, -⟩ | ⟨b', w, rest, hhead, hp, rfl⟩ | ⟨_, _, _, -, rfl⟩ | ⟨_, _, -, rfl⟩ | ⟨b', l', hhead, rfl⟩ :=
    step_wires hstep
  · exact absurd (by rw [hinl]) h
  · obtain rfl := performWrite_inl_of_ne h
    exact .inl ⟨hhead, by rw [hp]; exact List.cons_ne_nil w rest⟩
  · exact absurd rfl h
  · exact absurd rfl h
  · obtain ⟨⟨rfl, rfl⟩, hsp⟩ := sampleStep_inl_of_ne h
    exact .inr ⟨hhead, hsp⟩

theorem peerStep_peerLow_of_ne {b b' : Bus} {l l' : Line} {low : Bool} {s : State}
    (h : (peerStep b' l' low s).peerLow.get b l ≠ s.peerLow.get b l) :
    (b = b' ∧ l = l') ∧ (peerStep b' l' low s).peerLow.get b l = low := by
  have hline : b = b' ∧ l = l' := not_not.1 fun hl => h (PerLine.get_set_ne _ _ hl)
  obtain ⟨rfl, rfl⟩ := hline
  exact ⟨⟨rfl, rfl⟩, PerLine.get_set_self _ b l low⟩

theorem settleStep_settled_of_ne {b b' : Bus} {l l' : Line} {s : State}
    (h : (settleStep b' l' s).settled.get b l ≠ s.settled.get b l) :
    (b = b' ∧ l = l') ∧ (settleStep b' l' s).settled.get b l = true := by
  have hline : b = b' ∧ l = l' := not_not.1 fun hl => h (settleStep_settled_get_ne s hl)
  obtain ⟨rfl, rfl⟩ := hline
  refine ⟨⟨rfl, rfl⟩, ?_⟩
  rw [settleStep_settled_get_self] at h ⊢
  cases hen : settleEnabled b l s with
  | true => rfl
  | false => exact absurd (by rw [hen]; rfl) h

/-- Settles O35: of the steps that touch a latch or a line, only a peer step writes a peer bit, and all but the sample
write settle bits. -/
theorem wireStateChangesOnlyByItsSteps : Obligations.WireStateChangesOnlyByItsSteps := by
  intro s t b l hstep
  obtain ⟨-, -, -, hpeer, hset⟩ | ⟨b', w, rest, hhead, hp, rfl⟩ | ⟨b', l', low, hhead, rfl⟩ | ⟨b', l', hhead, rfl⟩ |
    ⟨_, _, -, rfl⟩ := step_wires hstep
  · exact ⟨fun h => absurd (by rw [hpeer]) h, fun h => absurd (by rw [hset]) h⟩
  · exact ⟨fun h => absurd rfl h, fun _ => .inl ⟨b', hhead, by rw [hp]; exact List.cons_ne_nil w rest⟩⟩
  · refine ⟨fun h => ?_, fun _ => .inr (.inl ⟨b', l', low, hhead⟩)⟩
    obtain ⟨⟨rfl, rfl⟩, hlow⟩ := peerStep_peerLow_of_ne h
    rw [hlow]
    exact hhead
  · refine ⟨fun h => absurd rfl h, fun h => ?_⟩
    obtain ⟨⟨rfl, rfl⟩, htrue⟩ := settleStep_settled_of_ne h
    exact .inr (.inr ⟨hhead, htrue⟩)
  · exact ⟨fun h => absurd rfl h, fun h => absurd rfl h⟩

/-! ### Faults and the refusal mark stay (R46) -/

theorem Move.sticky {s t : State} (h : Move s t) :
    (∀ f ∈ s.faults, f ∈ t.faults) ∧ (s.refused = true → t.refused = true) := by
  cases h with
  | fault r => exact ⟨fun f hf => mem_addFault.2 (.inr hf), id⟩
  | refuse r => exact ⟨fun f hf => hf, fun _ => rfl⟩
  | _ => exact ⟨fun f hf => hf, id⟩

theorem runEvent_sticky {e : Event} {s t : State} (h : runEvent e s = .next t) :
    (∀ f ∈ s.faults, f ∈ t.faults) ∧ (s.refused = true → t.refused = true) := by
  obtain ⟨a, -, hm⟩ | ⟨b, -, rfl⟩ | ⟨b, l, low, -, rfl⟩ | ⟨b, l, -, rfl⟩ | ⟨b, l, -, rfl⟩ := runEvent_cases h
  · exact hm.sticky
  · rw [postStep_faults, postStep_refused]; exact ⟨fun f hf => hf, id⟩
  all_goals exact ⟨fun f hf => hf, id⟩

/-- Settles O31, by the cases of a step. -/
theorem faultsAndRefusalAreSticky : Obligations.FaultsAndRefusalAreSticky := by
  intro s t hstep
  obtain ⟨a, -, hr⟩ | ⟨-, -, rfl⟩ | ⟨e, rest, -, -, hr⟩ := step_cases hstep
  · exact runEvent_sticky hr
  · exact ⟨fun f hf => hf, id⟩
  · exact runEvent_sticky (s := { s with schedule := rest }) hr

end Sys2Proof.Machine
end

section
/-! SUPPORT. Which step changes the window (10_state.md R40; 40_register_window.md R140, R150): only the request of an
opening or closing operation, or the micro-step of an agent whose `CLOSE` is due. With it the claim about the window. -/

namespace Sys2Proof.Machine

/-- A step maps the window, which was not mapped. -/
def State.Opened (s t : State) : Prop := s.win.status ≠ .mapped ∧ t.win.status = .mapped

/-- A step closes the window, which was mapped, with no bus registered, no primitive in flight and nothing pending. -/
def State.Closed (s t : State) : Prop :=
  s.win.status = .mapped ∧ t.win = { status := .closed, base := none } ∧
    s.buses = [] ∧ s.busyAgents = [] ∧ ∀ b, s.pend.get b = []

/-! ### The shared operations -/

theorem openThen_win {phys : Nat} {k : State → State} {s t : State} (h : openThen phys k s = .next t)
    (hk : ∀ u, (k u).win = u.win) : t.win = s.win ∨ s.Opened t := by
  obtain ⟨r, rfl⟩ | ⟨hn, ⟨a, rfl⟩ | ⟨a, -, rfl⟩⟩ := openThen_next h
  · exact .inl rfl
  · exact .inl rfl
  · exact .inr ⟨hn, by rw [hk]⟩

theorem closeThen_win {held k : State → State} {s t : State} (h : closeThen held k s = .next t)
    (hheld : ∀ u, (held u).win = u.win) (hk : ∀ u, (k u).win = u.win) : t.win = s.win ∨ s.Closed t := by
  obtain ⟨-, rfl⟩ | ⟨r, rfl⟩ | ⟨hm, hb, hy, ⟨-, rfl⟩ | ⟨hp, rfl⟩⟩ := closeThen_next h
  · exact .inl (hk s)
  · exact .inl rfl
  · exact .inl (hheld s)
  · exact .inr ⟨hm, hk _, hb, hy, hp⟩

theorem bareWrite_win {off : Nat} {w : Word} {s t : State} (h : whenAtRest (writeThen off w id) s = .next t) :
    t.win = s.win := by
  obtain rfl | ⟨-, h⟩ := whenAtRest_next h
  · rfl
  obtain ⟨r, rfl⟩ | ⟨r, rfl⟩ | ⟨b, -, -, -, rfl⟩ := writeThen_next h <;> rfl

theorem bareRead_win {off : Nat} {held : State → State} {k : Word → State → State} {s t : State}
    (h : whenAtRest (readThen off held k) s = .next t) (hheld : ∀ u, (held u).win = u.win)
    (hk : ∀ v u, (k v u).win = u.win) : t.win = s.win := by
  obtain rfl | ⟨-, h⟩ := whenAtRest_next h
  · rfl
  obtain ⟨r, rfl⟩ | ⟨r, rfl⟩ | ⟨b, -, -, ⟨-, rfl⟩ | ⟨-, rfl⟩⟩ := readThen_next h
  · rfl
  · rfl
  · exact hk _ _
  · exact hheld s

theorem startPrim_win {p : Prim} {b : Bus} {s t : State} (h : startPrim p b s = .next t) : t.win = s.win := by
  obtain rfl | ⟨-, h⟩ := whenAtRest_next h
  · rfl
  split at h <;> cases h <;> rfl

theorem detachStep_win {remaining : List LogicalBus} {s t : State} (h : detachStep remaining s = .next t) :
    t.win = s.win ∨ s.Closed t := by
  cases remaining with
  | nil =>
    simp only [detachStep] at h
    exact closeThen_win h (fun _ => rfl) fun _ => rfl
  | cons x rest => cases h; exact .inl rfl

/-! ### Requests -/

/-- Of the operations only `OPEN` and `ATTACH` map the window, and only `CLOSE` and `DETACH` close it. -/
theorem exec_win {i : Instr} {s t : State} (h : exec i s = .next t) :
    t.win = s.win ∨ (s.Opened t ∧ ∃ phys, i = .openWin phys ∨ i = .attach phys) ∨
      (s.Closed t ∧ (i = .close ∨ i = .detach)) := by
  cases i with
  | wr32 off w => exact .inl (bareWrite_win h)
  | wr32Ctl b c d => exact .inl (bareWrite_win h)
  | setClk1 b => exact .inl (bareWrite_win h)
  | setClk0 b => exact .inl (bareWrite_win h)
  | setDat1 b => exact .inl (bareWrite_win h)
  | setDat0 b => exact .inl (bareWrite_win h)
  | relClk b => exact .inl (bareWrite_win h)
  | relDat b => exact .inl (bareWrite_win h)
  | latch b => exact .inl (bareWrite_win h)
  | rd32 off => exact .inl (bareRead_win h (fun _ => rfl) fun _ _ => rfl)
  | flush off => exact .inl (bareRead_win h (fun _ => rfl) fun _ _ => rfl)
  | primSetClk1 b => exact .inl (startPrim_win h)
  | primSetClk0 b => exact .inl (startPrim_win h)
  | primSetDat1 b => exact .inl (startPrim_win h)
  | primSetDat0 b => exact .inl (startPrim_win h)
  | primGetClk b => exact .inl (startPrim_win h)
  | primGetDat b => exact .inl (startPrim_win h)
  | openWin phys =>
    obtain rfl | ⟨-, h⟩ := whenAtRest_next h
    · exact .inl rfl
    exact (openThen_win h fun _ => rfl).imp_right fun ho => .inl ⟨ho, phys, .inl rfl⟩
  | attach phys =>
    obtain rfl | ⟨-, h⟩ := whenAtRest_next h
    · exact .inl rfl
    exact (openThen_win h fun _ => rfl).imp_right fun ho => .inl ⟨ho, phys, .inr rfl⟩
  | close =>
    obtain rfl | ⟨-, h⟩ := whenAtRest_next h
    · exact .inl rfl
    exact (closeThen_win h (fun _ => rfl) fun _ => rfl).imp_right fun hc => .inr ⟨hc, .inl rfl⟩
  | detach =>
    obtain rfl | ⟨-, h⟩ := whenAtRest_next h
    · exact .inl rfl
    exact (detachStep_win h).imp_right fun hc => .inr ⟨hc, .inr rfl⟩

/-- The name of a control word is a single access. -/
theorem accessWord_nameWord (b : Bus) (w : Word) : (accessWord (nameWord b w)).isSome = true := by
  unfold nameWord
  split_ifs <;> rfl

/-- Every decoded operation is a single access (30_encoding.md R100). -/
theorem accessWord_of_decode {w : AccWord} {i : Instr} (h : decode w = .ok i) : (accessWord i).isSome = true := by
  simp only [decode, nameWrite] at h
  split at h
  · cases h
  split at h
  · cases h
    split
    · rfl
    · split
      · rfl
      · exact accessWord_nameWord _ _
  · split at h <;> cases h
    rfl

/-- A request changes the window only by a call: no access opens or closes it. -/
theorem runRequest_win {q : Request} {s t : State} (h : runRequest q s = .next t) :
    t.win = s.win ∨ (s.Opened t ∧ ∃ phys, q = .call (.openWin phys) ∨ q = .call (.attach phys)) ∨
      (s.Closed t ∧ (q = .call .close ∨ q = .call .detach)) := by
  cases q with
  | call i => simpa only [Request.call.injEq] using exec_win h
  | acc width w =>
    refine .inl ?_
    simp only [runRequest] at h
    split at h
    · obtain rfl | ⟨-, h⟩ := whenAtRest_next h
      · rfl
      · cases h; rfl
    split at h
    · next i hdec =>
      have hacc := accessWord_of_decode hdec
      obtain he | ⟨-, phys, rfl | rfl⟩ | ⟨-, rfl | rfl⟩ := exec_win h
      · exact he
      all_goals cases hacc
    · obtain rfl | ⟨-, h⟩ := whenAtRest_next h
      · rfl
      · cases h

/-! ### Micro-steps -/

theorem microStep_of_atRest {s : State} (h : s.me = .atRest) : microStep s = .next s := by
  simp only [microStep, h, AgentRec.atRest, Bool.false_eq_true, if_false]

/-- Of the moves of an engaged agent, only the `CLOSE` it waits in and the `CLOSE` of its `DETACH` change the window. -/
theorem Move.win {s t : State} (h : Move s t) :
    t.win = s.win ∨ s.me = .atRest ∨
      (s.Closed t ∧ (s.me.task = .waiting .close ∨ s.me.task = .detach [])) := by
  cases h with
  | openOk _ _ hr => exact .inr (.inl hr)
  | attachOk _ _ hr => exact .inr (.inl hr)
  | close hr => exact .inr (.inl hr)
  | retryClose _ _ ht hm hb hy hp => exact .inr (.inr ⟨⟨hm, rfl, hb, hy, hp⟩, .inl ht⟩)
  | detachClose hd hm hb hy hp =>
    obtain ⟨hr, -⟩ | ⟨-, ht, -⟩ := hd
    · exact .inr (.inl hr)
    · exact .inr (.inr ⟨⟨hm, rfl, hb, hy, hp⟩, .inr ht⟩)
  | _ => exact .inl rfl

/-- A micro-step changes the window only by the `CLOSE` its agent waits in, or the `CLOSE` of its `DETACH`. -/
theorem microStep_win {s t : State} (h : microStep s = .next t) :
    t.win = s.win ∨ (s.Closed t ∧ (s.me.task = .waiting .close ∨ s.me.task = .detach [])) := by
  obtain he | hr | hc := (microStep_move h).win
  · exact .inl he
  · cases (microStep_of_atRest hr).symm.trans h
    exact .inl rfl
  · exact .inr hc

/-! ### Steps -/

theorem runEvent_win {e : Event} {s t : State} (h : runEvent e s = .next t) :
    t.win = s.win ∨
    (s.Opened t ∧ ∃ a phys, e = .request a (.call (.openWin phys)) ∨ e = .request a (.call (.attach phys))) ∨
    (s.Closed t ∧ ∃ a, e = .request a (.call .close) ∨ e = .request a (.call .detach) ∨
      (e = .micro a ∧ ((s.agent a).task = .waiting .close ∨ (s.agent a).task = .detach []))) := by
  cases e with
  | request a q =>
    obtain he | ⟨ho, phys, hq⟩ | ⟨hc, hq⟩ := runRequest_win h
    · exact .inl he
    · exact .inr (.inl ⟨ho, a, phys, by simpa using hq⟩)
    · exact .inr (.inr ⟨hc, a, by simpa using hq⟩)
  | micro a =>
    obtain he | ⟨hc, ht⟩ := microStep_win h
    · exact .inl he
    · exact .inr (.inr ⟨hc, a, .inr (.inr ⟨rfl, ht⟩)⟩)
  | post b => cases h; exact .inl (postStep_win b s)
  | peer b l low => cases h; exact .inl rfl
  | settle b l => cases h; exact .inl rfl
  | sample b l => cases h; exact .inl rfl

/-- Settles O36, by the cases of a step: the turn of an `ATTACH` never changes the window, and a scheduled event does as
`runEvent_win` says. -/
theorem windowChangesOnlyByOpenAndClose : Obligations.WindowChangesOnlyByOpenAndClose := by
  intro s t hstep hne
  obtain ⟨a, hturn, hr⟩ | ⟨-, -, rfl⟩ | ⟨e, rest, hturn, hs, hr⟩ := step_cases hstep
  · obtain ⟨-, ⟨st, hst⟩, -⟩ := betweenPrims_iff.1 (attachTurn_some hturn)
    obtain he | ⟨-, ht⟩ := microStep_win hr
    · exact absurd he hne
    · rw [show ({ s with actor := a } : State).me.task = .attach st from hst] at ht
      obtain ht | ht := ht <;> cases ht
  · exact absurd rfl hne
  rw [hs, List.head?_cons]
  obtain he | ⟨⟨hn, hm⟩, a, phys, he⟩ | ⟨⟨hm, hw, hb, hy, hp⟩, a, he⟩ := runEvent_win hr
  · exact absurd he hne
  · exact .inl ⟨hn, hm, a, phys, by simpa using he⟩
  · refine .inr ⟨hm, hw, hb, hy, hp, hturn, a, ?_⟩
    simp only [Option.some.injEq]
    exact he

end Sys2Proof.Machine
end

section
/-! SUPPORT. The sequencer (10_state.md R43, R44): how a primitive starts (41_line_driver.md R180), how its micro-steps
advance and how it returns. With it the claims about the start and the micro-steps of a primitive. -/

namespace Sys2Proof.Machine

/-! ### Requests of an agent that is engaged or stopped -/

theorem startPrim_of_engaged (p : Prim) (b : Bus) {s : State} (h : s.me ≠ .atRest) : startPrim p b s = .next s :=
  whenAtRest_of_engaged h

theorem exec_of_engaged (i : Instr) {s : State} (h : s.me ≠ .atRest) : exec i s = .next s := by
  cases i with
  | primSetClk1 b | primSetClk0 b | primSetDat1 b | primSetDat0 b | primGetClk b | primGetDat b =>
    exact startPrim_of_engaged _ b h
  | _ => exact whenAtRest_of_engaged h

theorem runRequest_of_engaged (q : Request) {s : State} (h : s.me ≠ .atRest) : runRequest q s = .next s := by
  cases q with
  | call i => exact exec_of_engaged i h
  | acc width w =>
    simp only [runRequest]
    split
    · exact whenAtRest_of_engaged h
    split
    · exact exec_of_engaged _ h
    · exact whenAtRest_of_engaged h

/-! ### Starting a primitive -/

theorem exec_setInstr (l : Line) (v : Bool) (b : Bus) (s : State) :
    exec (setInstr l v b) s = startPrim (setPrim l v) b s := by
  cases l <;> cases v <;> rfl

theorem exec_getInstr (l : Line) (b : Bus) (s : State) : exec (getInstr l b) s = startPrim (getPrim l) b s := by
  cases l <;> rfl

theorem registered_iff {s : State} {b : Bus} : s.registered b = true ↔ ∃ x ∈ s.buses, x.bus = b := by
  simp [State.registered]

theorem startPrim_of_registered {p : Prim} {b : Bus} {s : State} (hr : s.agent s.actor = .atRest)
    (hb : s.registered b = true) :
    startPrim p b s = .next (s.setAgent s.actor { AgentRec.atRest with seq := .busy p b 0 none }) := by
  rw [startPrim, whenAtRest_of_atRest hr, if_pos hb, State.setSeq, State.setMe, State.me, hr]

theorem startPrim_of_not_registered {p : Prim} {b : Bus} {s : State} (hr : s.agent s.actor = .atRest)
    (hb : ¬ s.registered b = true) : startPrim p b s = .next (raiseFault (.noBus b p) s) := by
  rw [startPrim, whenAtRest_of_atRest hr, if_neg hb]

/-- Settles O41, by what the start of a primitive answers on a registered bus, on another bus, and to an agent that is
engaged or stopped. -/
theorem primitivesStartOnRegisteredBuses : Obligations.PrimitivesStartOnRegisteredBuses := by
  intro s l v b
  rw [exec_setInstr, exec_getInstr]
  refine ⟨fun hr hb => ?registered, fun hr hb => ?unregistered, fun hr => ?engaged⟩
  case registered =>
    have hb' := registered_iff.2 hb
    exact ⟨startPrim_of_registered hr hb', startPrim_of_registered hr hb'⟩
  case unregistered =>
    have hb' : ¬ s.registered b = true := fun h => by
      obtain ⟨x, hx, he⟩ := registered_iff.1 h
      exact hb x hx he
    exact ⟨startPrim_of_not_registered hr hb', startPrim_of_not_registered hr hb'⟩
  case engaged => exact ⟨fun i => exec_of_engaged i hr, fun q => runRequest_of_engaged q hr⟩

/-! ### The micro-steps of a primitive -/

theorem microStep_of_busy {s : State} {p : Prim} {b : Bus} {k : Nat} {r : Option Word}
    (hq : s.me.seq = .busy p b k r) (hs : s.me.stopped = false) : microStep s = primStep p b k r s := by
  simp only [microStep, hs, hq, Bool.false_eq_true, if_false]

/-- A return moves the agent to `Idle`: to rest, or to the next stage of its `ATTACH`. -/
theorem returnPrim_next {p : Prim} {r : Option Word} {s t : State} (h : returnPrim p r s = .next t) :
    (s.me.task = .none ∧ t.agents = (s.setSeq .idle).agents) ∨
    ∃ st, s.me.task = .attach st ∧ t = s.setMe { s.me with seq := .idle, task := .attach st.next } := by
  unfold returnPrim at h
  split at h
  · next st ht _ => cases h; exact .inr ⟨st, ht, rfl⟩
  · next ht _ => cases h; exact .inl ⟨ht, rfl⟩
  · next ht _ => cases h; exact .inl ⟨ht, rfl⟩
  · cases h

/-- What a micro-step of a primitive does to its agent: a fault or a refusal, the next index after an access, a hold at a
read with writes pending, or the return. -/
theorem primStep_next {p : Prim} {b : Bus} {k : Nat} {r : Option Word} {s t : State}
    (h : primStep p b k r s = .next t) :
    (k < (microOps p).length ∧
      (t.agents = (s.setMe { s.me with stopped := true }).agents ∨
       ∃ r', t.agents = (s.setSeq (.busy p b (k + 1) r')).agents)) ∨
    ((microOps p)[k]? = some .read ∧ s.pend.get b ≠ [] ∧ t = s) ∨
    (k = (microOps p).length ∧ returnPrim p r s = .next t) := by
  unfold primStep at h
  split at h
  · next w ho =>
    refine .inl ⟨(List.getElem?_eq_some_iff.1 ho).1, ?_⟩
    obtain ⟨_, rfl⟩ | ⟨_, rfl⟩ | ⟨_, -, -, -, rfl⟩ := writeThen_next h
    · exact .inl rfl
    · exact .inl rfl
    · exact .inr ⟨r, rfl⟩
  · next ho =>
    have hk := (List.getElem?_eq_some_iff.1 ho).1
    obtain ⟨_, rfl⟩ | ⟨_, rfl⟩ | ⟨b', hb, -, ⟨-, rfl⟩ | ⟨hp, rfl⟩⟩ := readThen_next h
    · exact .inl ⟨hk, .inl rfl⟩
    · exact .inl ⟨hk, .inl rfl⟩
    · exact .inl ⟨hk, .inr ⟨_, rfl⟩⟩
    · obtain rfl := off_injective hb
      exact .inr (.inl ⟨ho, hp, rfl⟩)
  · split at h
    · next hk => exact .inr (.inr ⟨hk, h⟩)
    · cases h

/-- The acting agent's record, where a step leaves the agents as setting that record does. -/
theorem agent_of_agents_eq {s t : State} {r : AgentRec} (h : agentsWf s.agents = true)
    (ht : t.agents = (s.setMe r).agents) : t.agent s.actor = r := by
  rw [State.agent, ht]
  exact setAgent_agent_self s s.actor r h

theorem atRest_of_idle {r : AgentRec} (hq : r.seq = .idle) (ht : r.task = .none) (hs : r.stopped = false) :
    r = .atRest := by
  cases r
  cases hq
  cases ht
  cases hs
  rfl

/-- Settles O42, by the cases of a primitive's micro-step and of its return. -/
theorem microStepsAdvanceByOne : Obligations.MicroStepsAdvanceByOne := by
  intro s t a p b k r hinv hq hs hrun
  have hstep : primStep p b k r { s with actor := a } = .next t :=
    (microStep_of_busy (s := { s with actor := a }) hq hs).symm.trans hrun
  have hwf : agentsWf ({ s with actor := a } : State).agents = true := hinv.agentList
  obtain ⟨hk, ht | ⟨r', ht⟩⟩ | ⟨ho, hp, rfl⟩ | ⟨hk, hret⟩ := primStep_next hstep
  · exact .inr (.inr (.inl ⟨hk, agent_of_agents_eq hwf ht⟩))
  · have hagent := agent_of_agents_eq hwf ht
    exact .inl ⟨hk, r', congrArg AgentRec.seq hagent, (congrArg AgentRec.stopped hagent).trans hs⟩
  · exact .inr (.inl ⟨ho, hp, rfl⟩)
  · obtain ⟨htask, ht⟩ | ⟨st, htask, rfl⟩ := returnPrim_next hret
    · have hrest := atRest_of_idle (r := { s.agent a with seq := .idle }) rfl htask hs
      exact .inr (.inr (.inr (.inl ⟨hk, htask, (agent_of_agents_eq hwf ht).trans hrest⟩)))
    · exact .inr (.inr (.inr (.inr ⟨hk, st, htask, agent_of_agents_eq hwf rfl⟩)))

end Sys2Proof.Machine
end

section
/-! SUPPORT. Posted writes (20_memory.md R72, R74, R78 to R81): the three things an event can do to the queues and the
observation, and what each adds to the words issued and performed. With them the claims about posting and reading. -/

namespace Sys2Proof.Machine

/-! ### The words of an observation -/

theorem issuedWords_append (b : Bus) (new old : List Obs) :
    issuedWords b (new ++ old) = issuedWords b old ++ issuedWords b new := by
  simp only [issuedWords, List.reverse_append, List.filterMap_append]

theorem performedWords_append (b : Bus) (new old : List Obs) :
    performedWords b (new ++ old) = performedWords b old ++ performedWords b new := by
  simp only [performedWords, List.reverse_append, List.filterMap_append]

theorem issuedWords_cons_write (b : Bus) (a : AgentId) (off : Nat) (w : Word) (old : List Obs) :
    issuedWords b (.write a off w :: old) = issuedWords b old ++ if off = Config.off b then [w] else [] := by
  rw [← List.singleton_append, issuedWords_append]
  simp only [issuedWords, List.reverse_singleton, List.filterMap_cons, List.filterMap_nil]
  split_ifs <;> rfl

theorem performedWords_cons_perform (b : Bus) (off : Nat) (w : Word) (old : List Obs) :
    performedWords b (.perform off w :: old) = performedWords b old ++ if off = Config.off b then [w] else [] := by
  rw [← List.singleton_append, performedWords_append]
  simp only [performedWords, List.reverse_singleton, List.filterMap_cons, List.filterMap_nil]
  split_ifs <;> rfl

@[simp] theorem performedWords_cons_write (b : Bus) (a : AgentId) (off : Nat) (w : Word) (old : List Obs) :
    performedWords b (.write a off w :: old) = performedWords b old := by
  rw [← List.singleton_append, performedWords_append]
  exact List.append_nil _

@[simp] theorem issuedWords_cons_perform (b : Bus) (off : Nat) (w : Word) (old : List Obs) :
    issuedWords b (.perform off w :: old) = issuedWords b old := by
  rw [← List.singleton_append, issuedWords_append]
  exact List.append_nil _

/-! ### What an event does to the queues -/

/-- An entry of the observation that answers an agent in `s`: a result, a refusal, or the read of an offset whose queue
is empty, with the word of `ReadValue` (R81). -/
def State.Answers (s : State) : Obs → Prop
  | .read _ off v => ∃ b, off = Config.off b ∧ s.pend.get b = [] ∧ v = readValue b s
  | .returned _ _ | .refused _ _ => True
  | .write _ _ _ | .perform _ _ => False

/-- No queue changes, and only answers are observed. -/
def State.KeepsQueues (s t : State) : Prop :=
  t.pend = s.pend ∧ ∃ new, t.trace = new ++ s.trace ∧ ∀ o ∈ new, s.Answers o

/-- One word is issued and joins its queue (R78). -/
def State.Enqueues (s t : State) : Prop :=
  ∃ a b w, t.trace = .write a (Config.off b) w :: s.trace ∧ t.pend = s.pend.set b (s.pend.get b ++ [w])

/-- The head of one queue leaves it and is performed (R79). -/
def State.PerformsHead (s t : State) : Prop :=
  ∃ b w rest, s.pend.get b = w :: rest ∧ t.trace = .perform (Config.off b) w :: s.trace ∧ t.pend = s.pend.set b rest

theorem State.KeepsQueues.silent {s t : State} (hp : t.pend = s.pend) (ht : t.trace = s.trace) : s.KeepsQueues t :=
  ⟨hp, [], ht, fun _ ho => absurd ho List.not_mem_nil⟩

theorem State.KeepsQueues.one {s t : State} {o : Obs} (hp : t.pend = s.pend) (ht : t.trace = o :: s.trace)
    (ho : s.Answers o) : s.KeepsQueues t :=
  ⟨hp, [o], ht, fun _ h => List.mem_singleton.1 h ▸ ho⟩

/-- A bare `RD32` is observed twice, as the read and as its result. -/
theorem State.KeepsQueues.readResult {s t : State} {a a' : AgentId} {r : Result} {b : Bus} (he : s.pend.get b = [])
    (hp : t.pend = s.pend) (ht : t.trace = .returned a r :: .read a' (Config.off b) (readValue b s) :: s.trace) :
    s.KeepsQueues t := by
  refine ⟨hp, [.returned a r, .read a' (Config.off b) (readValue b s)], ht, fun o ho => ?_⟩
  obtain rfl | ho := List.mem_cons.1 ho
  · trivial
  · obtain rfl := List.mem_singleton.1 ho
    exact ⟨b, rfl, he, rfl⟩

/-- An agent's move issues one word or leaves the queues; none performs a word. -/
theorem Move.queues {s t : State} (h : Move s t) : s.KeepsQueues t ∨ s.Enqueues t := by
  cases h with
  | write b w => exact .inr ⟨s.actor, b, w, rfl, rfl⟩
  | primWrite p b k r w => exact .inr ⟨s.actor, b, w, rfl, rfl⟩
  | read b _ _ hp => exact .inl (.readResult hp rfl rfl)
  | retryRead b _ _ _ _ hp => exact .inl (.readResult hp rfl rfl)
  | flush b _ _ hp => exact .inl (.one rfl rfl ⟨b, rfl, hp, rfl⟩)
  | retryFlush b _ _ _ _ hp => exact .inl (.one rfl rfl ⟨b, rfl, hp, rfl⟩)
  | primRead p b k r _ _ _ _ hp => exact .inl (.one rfl rfl ⟨b, rfl, hp, rfl⟩)
  | refuse | openOk | mapError | primResult | attachDone => exact .inl (.one rfl rfl trivial)
  | _ => exact .inl (.silent rfl rfl)

theorem postStep_queues (b : Bus) (s : State) : s.KeepsQueues (postStep b s) ∨ s.PerformsHead (postStep b s) := by
  obtain ⟨-, he⟩ | ⟨w, rest, hp, he⟩ := postStep_cases b s <;> rw [he]
  · exact .inl (.silent rfl rfl)
  · exact .inr ⟨b, w, rest, hp, rfl, rfl⟩

theorem runEvent_queues {e : Event} {s t : State} (h : runEvent e s = .next t) :
    s.KeepsQueues t ∨ s.Enqueues t ∨ s.PerformsHead t := by
  obtain ⟨a, -, hm⟩ | ⟨b, -, rfl⟩ | ⟨b, l, low, -, rfl⟩ | ⟨b, l, -, rfl⟩ | ⟨b, l, -, rfl⟩ := runEvent_cases h
  · exact hm.queues.imp_right .inl
  · exact (postStep_queues b s).imp_right .inr
  all_goals exact .inl (.silent rfl rfl)

/-! ### Each issued word performs once, in order (R78, R80) -/

/-- The words issued at a bus's offset are those performed and then those pending. -/
def State.QueueHistory (s : State) (b : Bus) : Prop :=
  issuedWords b s.trace = performedWords b s.trace ++ s.pend.get b

theorem issuedWords_of_answers {s : State} {new : List Obs} (h : ∀ o ∈ new, s.Answers o) (b : Bus) :
    issuedWords b new = [] := by
  refine List.filterMap_eq_nil_iff.2 fun o ho => ?_
  have ha := h o (List.mem_reverse.1 ho)
  cases o with
  | write => exact ha.elim
  | _ => rfl

theorem performedWords_of_answers {s : State} {new : List Obs} (h : ∀ o ∈ new, s.Answers o) (b : Bus) :
    performedWords b new = [] := by
  refine List.filterMap_eq_nil_iff.2 fun o ho => ?_
  have ha := h o (List.mem_reverse.1 ho)
  cases o with
  | perform => exact ha.elim
  | _ => rfl

theorem State.KeepsQueues.queueHistory {s t : State} (h : s.KeepsQueues t) {b : Bus} (hs : s.QueueHistory b) :
    t.QueueHistory b := by
  obtain ⟨hp, new, ht, hnew⟩ := h
  rw [QueueHistory, ht, hp, issuedWords_append, performedWords_append, issuedWords_of_answers hnew,
    performedWords_of_answers hnew, List.append_nil, List.append_nil]
  exact hs

theorem State.Enqueues.queueHistory {s t : State} (h : s.Enqueues t) {b : Bus} (hs : s.QueueHistory b) :
    t.QueueHistory b := by
  obtain ⟨a, b', w, ht, hp⟩ := h
  rw [QueueHistory, ht, hp, issuedWords_cons_write, performedWords_cons_write, hs, PerBus.get_set]
  by_cases hb : b = b'
  · subst hb
    rw [if_pos rfl, if_pos rfl, List.append_assoc]
  · rw [if_neg fun he => hb (off_injective he).symm, if_neg hb, List.append_nil]

theorem State.PerformsHead.queueHistory {s t : State} (h : s.PerformsHead t) {b : Bus} (hs : s.QueueHistory b) :
    t.QueueHistory b := by
  obtain ⟨b', w, rest, hw, ht, hp⟩ := h
  rw [QueueHistory, ht, hp, issuedWords_cons_perform, performedWords_cons_perform, hs, PerBus.get_set]
  by_cases hb : b = b'
  · subst hb
    rw [if_pos rfl, if_pos rfl, hw, List.append_assoc, List.singleton_append]
  · rw [if_neg fun he => hb (off_injective he).symm, if_neg hb, List.append_nil]

theorem runEvent_queueHistory {e : Event} {s t : State} (h : runEvent e s = .next t) {b : Bus} (hs : s.QueueHistory b) :
    t.QueueHistory b := by
  obtain hk | he | hp := runEvent_queues h
  · exact hk.queueHistory hs
  · exact he.queueHistory hs
  · exact hp.queueHistory hs

/-- Settles O28, by the cases of a step: every event keeps the history of each queue. -/
theorem issuedWritesPerformOnceInOrder : Obligations.IssuedWritesPerformOnceInOrder := by
  intro s t hstep hs b
  obtain ⟨a, -, hr⟩ | ⟨-, -, rfl⟩ | ⟨e, rest, -, -, hr⟩ := step_cases hstep
  · exact runEvent_queueHistory hr (hs b)
  · exact hs b
  · exact runEvent_queueHistory (s := { s with schedule := rest }) hr (hs b)

/-! ### Reads return from drained queues (R81), and posting performs the head (R79) -/

/-- Settles O26: an event that observes a read neither issues nor performs a word, so what it observes are answers. -/
theorem readsReturnOnlyWhenDrained : Obligations.ReadsReturnOnlyWhenDrained := by
  intro e s t new a off v hrun htrace hread
  have hnew : ∀ {new'}, t.trace = new' ++ s.trace → .read a off v ∈ new' :=
    fun h => List.append_cancel_right (htrace.symm.trans h) ▸ hread
  obtain ⟨hp, new', ht, hans⟩ | ⟨a', b, w, ht, -⟩ | ⟨b, w, rest, -, ht, -⟩ := runEvent_queues hrun
  · obtain ⟨b, hoff, hempty, hv⟩ := hans _ (hnew ht)
    exact ⟨b, hoff, hempty, hp, hv⟩
  · cases List.mem_singleton.1 (hnew (new' := [_]) ht)
  · cases List.mem_singleton.1 (hnew (new' := [_]) ht)

theorem postStep_of_nil {b : Bus} {s : State} (h : s.pend.get b = []) : postStep b s = s := by
  simp only [postStep, h]

theorem postStep_of_cons {b : Bus} {s : State} {w : Word} {rest : List Word} (h : s.pend.get b = w :: rest) :
    postStep b s =
      performWrite b w { s with pend := s.pend.set b rest, trace := .perform (Config.off b) w :: s.trace } := by
  simp only [postStep, h]

/-- Settles O27, by the two cases of the queue. -/
theorem postingStepPerformsHead : Obligations.PostingStepPerformsHead := by
  refine fun s b => ⟨fun hempty => ?_, fun w rest hcons => ?_⟩
  · rw [runEvent, postStep_of_nil hempty]
  · rw [runEvent, postStep_of_cons hcons]

/-! ### The same word twice (R74), and an access of another width (R72) -/

/-- Settles O13: a field the word enables has the word's value after either performance, and another keeps its own. -/
theorem repeatedWriteLeavesFields : Obligations.RepeatedWriteLeavesFields := by
  intro s b w
  have hdir : (performWrite b w (performWrite b w s)).dir = (performWrite b w s).dir :=
    PerLine.ext_get fun b' l => by
      simp only [performWrite, performWith_dir_get]
      split_ifs <;> rfl
  have hout : (performWrite b w (performWrite b w s)).out = (performWrite b w s).out :=
    PerLine.ext_get fun b' l => by
      simp only [performWrite, performWith_out_get]
      split_ifs <;> rfl
  exact ⟨hdir, hout, fun b' l => by rw [State.drive, hdir, hout, State.drive]⟩

/-- Settles O21: the width is the first thing a request looks at. -/
theorem otherWidthsRefused : Obligations.OtherWidthsRefused := by
  intro s a width w hwidth hrest
  have hw : width ≠ Config.wordBits := hwidth
  rw [runEvent, runRequest, if_pos hw]
  exact whenAtRest_of_atRest (s := { s with actor := a }) hrest

end Sys2Proof.Machine
end

section
/-! SUPPORT. A placed word (20_memory.md R83, 70_reset_and_hazards.md R291): the caller it is placed for is at rest, and
once the turns are dropped no `ATTACH` goes before it. With them the claim about a placed word. -/

namespace Sys2Proof.Machine

theorem agentKey_le_freshCaller {x : AgentId × AgentRec} {l : List (AgentId × AgentRec)} (h : x ∈ l) :
    agentKey x.1 ≤ freshCaller l := by
  induction l with
  | nil => cases h
  | cons y l ih =>
    obtain rfl | h := List.mem_cons.1 h
    · exact Nat.le_max_left _ _
    · exact (ih h).trans (Nat.le_max_right _ _)

theorem agent_freshCaller (s : State) : s.agent (.caller (freshCaller s.agents)) = .atRest := by
  refine lookup_of_not_mem fun x hx he => ?_
  have hle := agentKey_le_freshCaller hx
  rw [he] at hle
  exact Nat.not_succ_le_self _ hle

/-- Dropping agents by their names leaves the records of those kept, in any list. -/
theorem lookup_filter_of_keep {keep : AgentId → Bool} {a : AgentId} (h : keep a = true)
    (l : List (AgentId × AgentRec)) : lookupAgent a (l.filter fun x => keep x.1) = lookupAgent a l := by
  induction l with
  | nil => rfl
  | cons x l ih =>
    obtain ⟨k, r⟩ := x
    by_cases hk : k = a
    · subst hk
      simp only [List.filter_cons, h, lookupAgent, if_true]
    · rw [List.filter_cons]
      split <;> simp only [lookupAgent, hk, if_false, ih]

/-- With the turns dropped, no agent that is listed has one. -/
theorem attachTurn_of_yieldTurns {s t : State} (h : t.agents = s.yieldTurns) : t.attachTurn = none := by
  refine Option.map_eq_none_iff.2 (List.find?_eq_none.2 fun x hx => ?_)
  rw [h] at hx
  have hkeep : (!(s.agent x.1).betweenPrims) = true := (List.mem_filter.1 hx).2
  have hsame : t.agent x.1 = s.agent x.1 := by
    rw [State.agent, h]
    exact lookup_filter_of_keep (keep := fun a => !(s.agent a).betweenPrims) hkeep s.agents
  rw [hsame]
  simpa using hkeep

theorem yieldTurns_of_no_turn {s : State} (h : s.attachTurn = none) : s.yieldTurns = s.agents :=
  List.filter_eq_self.2 fun x _ => by rw [attachTurn_none h x.1]; rfl

theorem decode_of_decodeTableWord {nbits w : Nat} {i : Instr} (h : decodeTableWord nbits w = some i) :
    w < 2 ^ nbits ∧ decode (BitVec.ofNat 48 w) = .ok i := by
  unfold decodeTableWord at h
  split at h
  · next hw =>
    split at h
    · next hdec => cases h; exact ⟨hw.1, hdec⟩
    · cases h
  · cases h

/-- Settles O10: the placed access heads the schedule, no `ATTACH` has the turn, and its caller is at rest. -/
theorem placedWordRunsNext : Obligations.PlacedWordRunsNext := by
  intro s w i hword
  obtain ⟨hlt, hdec⟩ := decode_of_decodeTableWord hword
  refine ⟨_, agent_freshCaller s, ?_, yieldTurns_of_no_turn⟩
  have hturn : (s.withFetchWord 48 w).attachTurn = none := attachTurn_of_yieldTurns rfl
  have hplaced : decode (BitVec.ofNat 48 (w % 2 ^ 48)) = .ok i := by rw [Nat.mod_eq_of_lt hlt]; exact hdec
  exact step_of_request hturn rfl (runRequest_acc_of_decode_ok hplaced)

end Sys2Proof.Machine
end

section
/-! SUPPORT. The `ACC` packing (30_encoding.md R100, R109, R112): what the decoder answers in each case of a word, and
the operations that are the write of one word at one offset, under any name. With them the claims about decoding, encoding,
names and the written-out words. -/

namespace Sys2Proof

open Machine

/-! ### The fields of a word of the packing -/

theorem accWord_top_eq_zero_iff (w : AccWord) : w.extractLsb' 45 3 = 0 ↔ w.toNat < 2 ^ 45 := by
  have hlt := w.isLt
  rw [← BitVec.toNat_inj, BitVec.extractLsb'_toNat, Nat.shiftRight_eq_div_pow, show (0 : BitVec 3).toNat = 0 from rfl]
  omega

theorem accWord_kind_eq_one_iff (w : AccWord) : w.extractLsb' 44 1 = 1 ↔ w.getLsbD 44 = true := by
  have hbit : (w.extractLsb' 44 1).getLsbD 0 = w.getLsbD 44 := by simp
  rw [← hbit]
  generalize w.extractLsb' 44 1 = k
  revert k
  decide

/-- A word of 45 bits is the packing of its kind, its offset and its value (R100). -/
theorem accWord_fields {w : AccWord} (h : w.toNat < 2 ^ 45) :
    accWord (w.getLsbD 44) (w.extractLsb' 32 12).toNat (w.extractLsb' 0 32) = w := by
  refine BitVec.eq_of_getLsbD_eq fun i hi => ?_
  rw [accWord_getLsbD, BitVec.ofNat_toNat, BitVec.setWidth_eq]
  split_ifs with hval hoff hkind
  · simp [hval]
  · have hi12 : i - 32 < 12 := by omega
    rw [BitVec.getLsbD_extractLsb', decide_eq_true hi12, Bool.true_and, Nat.add_sub_cancel' (Nat.le_of_not_lt hval)]
  · rw [hkind]
  · have hhigh : 45 ≤ i := by omega
    exact (Nat.testBit_lt_two_pow (h.trans_le (Nat.pow_le_pow_right (by decide) hhigh))).symm

/-! ### What the decoder answers -/

theorem decode_of_beyond {w : AccWord} (h : 2 ^ 45 ≤ w.toNat) : decode w = .error .beyondPacking :=
  if_pos fun h0 => Nat.not_lt.2 h ((accWord_top_eq_zero_iff w).1 h0)

theorem decode_of_write {w : AccWord} (h : w.toNat < 2 ^ 45) (hk : w.getLsbD 44 = true) :
    decode w = .ok (nameWrite (w.extractLsb' 32 12).toNat (w.extractLsb' 0 32)) := by
  rw [decode, if_neg (not_not.2 ((accWord_top_eq_zero_iff w).2 h)), if_pos ((accWord_kind_eq_one_iff w).2 hk)]

theorem decode_of_read {w : AccWord} (h : w.toNat < 2 ^ 45) (hk : w.getLsbD 44 = false) :
    decode w = if w.extractLsb' 0 32 = 0 then .ok (.rd32 (w.extractLsb' 32 12).toNat) else .error .readWithValue := by
  have hk' : ¬ w.extractLsb' 44 1 = 1 := by rw [accWord_kind_eq_one_iff, hk]; decide
  rw [decode, if_neg (not_not.2 ((accWord_top_eq_zero_iff w).2 h)), if_neg hk']

/-- Every word that decodes is a packing: of a write, which gets its name, or of a read with value 0. -/
theorem decode_ok {w : AccWord} {i : Instr} (h : decode w = .ok i) :
    ∃ off < 0x1000, (∃ v, w = accWord true off v ∧ i = nameWrite off v) ∨ (w = accWord false off 0 ∧ i = .rd32 off) := by
  refine ⟨(w.extractLsb' 32 12).toNat, (w.extractLsb' 32 12).isLt, ?_⟩
  obtain hlt | hge := Nat.lt_or_ge w.toNat (2 ^ 45)
  · have hfields := accWord_fields hlt
    cases hk : w.getLsbD 44 with
    | true =>
      rw [decode_of_write hlt hk] at h
      rw [hk] at hfields
      cases h
      exact .inl ⟨_, hfields.symm, rfl⟩
    | false =>
      rw [decode_of_read hlt hk] at h
      rw [hk] at hfields
      split_ifs at h with hv
      rw [hv] at hfields
      cases h
      exact .inr ⟨hfields.symm, rfl⟩
  · rw [decode_of_beyond hge] at h
    cases h

/-- Settles O4, by the kinds of a word: beyond the packing, a write, or a read. -/
theorem rejectedWordsCharacterised : Obligations.RejectedWordsCharacterised := by
  intro w
  obtain hlt | hge := Nat.lt_or_ge w.toNat (2 ^ 45)
  · simp only [Nat.not_le.2 hlt, false_or]
    cases hk : w.getLsbD 44 with
    | true => simp [decode_of_write hlt hk]
    | false =>
      rw [decode_of_read hlt hk]
      split_ifs with hv
      · simp [hv]
      · exact iff_of_true ⟨_, rfl⟩ ⟨rfl, hv⟩
  · simp only [hge, true_or, iff_true]
    exact ⟨_, decode_of_beyond hge⟩

/-! ### One write under any name (R109) -/

/-- The operation is one access, the write of `w` at `off`, under whatever name: it has its word, its meaning and its
name in a decoder. -/
structure Instr.IsWrite (i : Instr) (off : Nat) (w : Word) : Prop where
  single : expansion i = [i]
  word : accessWord i = some (accWord true off w)
  run : ∀ s, exec i s = exec (.wr32 off w) s
  fits : off < 0x1000 → i.encodable = true
  name : canonical i = nameWrite off w

namespace Instr.IsWrite

theorem wr32 (off : Nat) (w : Word) : (Instr.wr32 off w).IsWrite off w :=
  ⟨rfl, rfl, fun _ => rfl, fun h => decide_eq_true h, rfl⟩

theorem wr32Ctl (b : Bus) (c d : LineCtl) : (Instr.wr32Ctl b c d).IsWrite (Config.off b) (ctlWord c d) :=
  ⟨rfl, rfl, fun _ => rfl, fun _ => rfl, (nameWrite_off b (ctlWord c d) (ctlWord_legal c d)).symm⟩

/-- The name of a legal control word is the write of that word. -/
theorem of_nameWord (b : Bus) {w : Word} (h : bitSet w Config.reservedMask = false) :
    (nameWord b w).IsWrite (Config.off b) w := by
  have hname : nameWord b w = nameWrite (Config.off b) w := (nameWrite_off b w h).symm
  obtain ⟨rfl, he⟩ | ⟨rfl, he⟩ | ⟨rfl, he⟩ | ⟨rfl, he⟩ | ⟨rfl, he⟩ | ⟨rfl, he⟩ | ⟨rfl, he⟩ | he := nameWord_cases b w <;>
    rw [he]
  on_goal 8 =>
    have hctl := wr32Ctl b (lineFields w .clk) (lineFields w .dat)
    rwa [ctlWord_lineFields w h] at hctl
  all_goals exact ⟨rfl, rfl, fun _ => rfl, fun _ => rfl, he.symm.trans hname⟩

/-- The name a decoder gives to a write is that write. -/
theorem of_nameWrite (off : Nat) (w : Word) : (nameWrite off w).IsWrite off w := by
  unfold nameWrite
  split
  · exact wr32 off w
  · next b hb =>
    obtain rfl := busAt_eq_some hb
    cases hw : bitSet w Config.reservedMask with
    | true => exact wr32 _ w
    | false => exact of_nameWord b hw

/-- Decoding its word gives its name. -/
theorem decode_word {i : Instr} {off : Nat} {w : Word} (h : i.IsWrite off w) (hoff : off < 0x1000) :
    decode (accWord true off w) = .ok (canonical i) := by
  rw [decode_accWord true off w hoff nofun, if_pos rfl, h.name]

theorem encode_eq {i : Instr} {off : Nat} {w : Word} (h : i.IsWrite off w) : encode i = [accWord true off w] := by
  rw [encode, h.single, List.filterMap_cons_some h.word, List.filterMap_nil]

end Instr.IsWrite

/-- Settles O6: both parts are `run` of the write the name stands for. -/
theorem namedWritesRunAsGenericWrites : Obligations.NamedWritesRunAsGenericWrites :=
  ⟨fun off w => (Instr.IsWrite.of_nameWrite off w).run, fun b clk dat => (Instr.IsWrite.wr32Ctl b clk dat).run⟩

/-- Settles O3: a word that decodes is the packing of a write or of a read, and both encode back to it. -/
theorem decodedAccessEncodesBack : Obligations.DecodedAccessEncodesBack := by
  intro w i h
  obtain ⟨off, hoff, ⟨v, rfl, rfl⟩ | ⟨rfl, rfl⟩⟩ := decode_ok h
  · have hwrite := Instr.IsWrite.of_nameWrite off v
    exact ⟨hwrite.encode_eq, hwrite.name, hwrite.fits hoff⟩
  · exact ⟨rfl, rfl, decide_eq_true hoff⟩

/-! ### The accesses an operation expands to (R112) -/

/-- The operation is one access, and its word decodes to its name. -/
def Instr.Decodes (i : Instr) : Prop := ∃ w, accessWord i = some w ∧ decode w = .ok (canonical i)

theorem Instr.IsWrite.decodes {i : Instr} {off : Nat} {w : Word} (h : i.IsWrite off w) (hoff : off < 0x1000) :
    i.Decodes :=
  ⟨_, h.word, h.decode_word hoff⟩

theorem decodes_rd32 {off : Nat} (hoff : off < 0x1000) : (Instr.rd32 off).Decodes :=
  ⟨_, rfl, decode_accWord false off 0 hoff fun _ => rfl⟩

theorem map_decode_of_decodes {l : List Instr} (h : ∀ j ∈ l, j.Decodes) :
    (l.filterMap accessWord).map decode = l.map fun j => .ok (canonical j) := by
  induction l with
  | nil => rfl
  | cons j l ih =>
    obtain ⟨⟨w, hw, hdec⟩, hl⟩ := List.forall_mem_cons.1 h
    rw [List.filterMap_cons_some hw, List.map_cons, List.map_cons, hdec, ih hl]

/-- Every access an encodable operation expands to decodes. -/
theorem decodes_of_mem_expansion {i : Instr} (hi : i.encodable = true) : ∀ j ∈ expansion i, j.Decodes := by
  have hread (b : Bus) : (Instr.rd32 (Config.off b)).Decodes := decodes_rd32 (off_lt b)
  have hname (b : Bus) {w : Word} (hw : bitSet w Config.reservedMask = false) : (nameWord b w).Decodes :=
    (Instr.IsWrite.of_nameWord b hw).decodes (off_lt b)
  have hclk1 (b : Bus) : (Instr.setClk1 b).Decodes := hname b (setWord_legal .clk true)
  have hclk0 (b : Bus) : (Instr.setClk0 b).Decodes := hname b (setWord_legal .clk false)
  have hdat1 (b : Bus) : (Instr.setDat1 b).Decodes := hname b (setWord_legal .dat true)
  have hdat0 (b : Bus) : (Instr.setDat0 b).Decodes := hname b (setWord_legal .dat false)
  have hrelClk (b : Bus) : (Instr.relClk b).Decodes := hname b (relWord_legal .clk)
  have hrelDat (b : Bus) : (Instr.relDat b).Decodes := hname b (relWord_legal .dat)
  have hlatch (b : Bus) : (Instr.latch b).Decodes := hname b latchWord_legal
  cases i with
  | wr32 off w => simpa [expansion] using (Instr.IsWrite.wr32 off w).decodes (of_decide_eq_true hi)
  | wr32Ctl b c d => simpa [expansion] using (Instr.IsWrite.wr32Ctl b c d).decodes (off_lt b)
  | rd32 off | flush off => simpa [expansion] using decodes_rd32 (of_decide_eq_true hi)
  -- the others expand to named writes and to reads of a bus's own offset
  | _ => simp [expansion, hread, hclk1, hclk0, hdat1, hdat0, hrelClk, hrelDat, hlatch]

/-- Settles O2: every access of the expansion decodes to its name. -/
theorem encodedWordsDecodeToExpansion : Obligations.EncodedWordsDecodeToExpansion :=
  fun _ hi => map_decode_of_decodes (decodes_of_mem_expansion hi)

/-- Settles O1, by evaluation of the decoder on each written-out word. -/
theorem writtenOutWordsDecode : Obligations.WrittenOutWordsDecode := by
  unfold Obligations.WrittenOutWordsDecode
  decide

/-- Settles O5: the first part is the definition; the others hold for each line and value. -/
theorem setWordIsConstantOfLineAndValue : Obligations.SetWordIsConstantOfLineAndValue := by
  refine ⟨fun _ _ => rfl, ?shifted, ?written, rfl, rfl, rfl, rfl⟩
  case shifted =>
    intro l v
    cases l <;> cases v <;> rfl
  case written =>
    intro l v
    cases l <;> rfl

end Sys2Proof
end

section
/-! SUPPORT. The checks of an access in their order (60_exceptions.md R255, 30_encoding.md R107, R108), and a legal write
of an agent at rest under any name. With them the claims about the checks and the control-word forms. -/

namespace Sys2Proof.Machine

theorem bitSet_reservedMask_iff {w : Word} : bitSet w Config.reservedMask = true ↔ w &&& 0xFFFFF0F0 ≠ 0 :=
  bne_iff_ne

theorem and_reservedMask_eq_zero {w : Word} (h : bitSet w Config.reservedMask = false) : w &&& 0xFFFFF0F0 = 0 :=
  bne_eq_false_iff_eq.1 h

theorem busAt_eq_none {off : Nat} (hi2c : off ≠ 0x10) (hddc : off ≠ 0x14) : busAt off = none := by
  rw [busAt, if_neg (show off ≠ Config.off .i2c from hi2c), if_neg (show off ≠ Config.off .ddc from hddc)]

/-! ### What the checks answer -/

section
variable {st : WinStatus} {off : Nat}

theorem checkAccess_of_not_mapped (w : Option Word) (h : st ≠ .mapped) :
    checkAccess st off w = .fault (.noWindow off w) :=
  if_pos h

theorem checkAccess_of_misaligned (hm : st = .mapped) (w : Option Word) (h : off % 4 ≠ 0) :
    checkAccess st off w = .fault (.misaligned off) := by
  rw [checkAccess, if_neg (not_not.2 hm), if_pos h]

theorem checkAccess_of_past_window (hm : st = .mapped) (w : Option Word) (ha : off % 4 = 0) (h : off + 4 > 0x1000) :
    checkAccess st off w = .fault (.badOffset off) := by
  rw [checkAccess, if_neg (not_not.2 hm), if_neg (not_not.2 ha), if_pos (show off + 4 > Config.windowLen from h)]

theorem checkAccess_of_unmodelled (hm : st = .mapped) (w : Option Word) (ha : off % 4 = 0) (hin : off + 4 ≤ 0x1000)
    (hi2c : off ≠ 0x10) (hddc : off ≠ 0x14) : checkAccess st off w = .refuse .unmodelledOffset := by
  rw [checkAccess, if_neg (not_not.2 hm), if_neg (not_not.2 ha),
    if_neg (show ¬ off + 4 > Config.windowLen from Nat.not_lt.2 hin), busAt_eq_none hi2c hddc]

theorem checkAccess_of_reserved (hm : st = .mapped) (b : Bus) {w : Word} (h : bitSet w Config.reservedMask = true) :
    checkAccess st (Config.off b) (some w) = .refuse .reservedBits := by
  have ha : Config.off b % 4 = 0 := by cases b <;> rfl
  have hin : ¬ Config.off b + 4 > Config.windowLen := by cases b <;> decide
  rw [checkAccess, if_neg (not_not.2 hm), if_neg (not_not.2 ha), if_neg hin, busAt_off]
  exact if_pos h

end

/-! ### An access that the checks stop, by an agent at rest -/

section
variable {s : State} {off : Nat} {w : Word}

theorem exec_wr32_of_fault {r : FaultReason} (hr : s.agent s.actor = .atRest)
    (h : checkAccess s.win.status off (some w) = .fault r) : exec (.wr32 off w) s = .next (raiseFault r s) := by
  rw [exec, execWr32, whenAtRest_of_atRest hr, writeThen, h]

theorem exec_wr32_of_refuse {r : RefusalReason} (hr : s.agent s.actor = .atRest)
    (h : checkAccess s.win.status off (some w) = .refuse r) : exec (.wr32 off w) s = .next (refuseOp r s) := by
  rw [exec, execWr32, whenAtRest_of_atRest hr, writeThen, h]

theorem exec_reads_of_fault {r : FaultReason} (hr : s.agent s.actor = .atRest)
    (h : checkAccess s.win.status off none = .fault r) :
    exec (.rd32 off) s = .next (raiseFault r s) ∧ exec (.flush off) s = .next (raiseFault r s) := by
  constructor
  · rw [exec, execRd32, whenAtRest_of_atRest hr, readThen, h]
  · rw [exec, execFlush, whenAtRest_of_atRest hr, readThen, h]

theorem exec_reads_of_refuse {r : RefusalReason} (hr : s.agent s.actor = .atRest)
    (h : checkAccess s.win.status off none = .refuse r) :
    exec (.rd32 off) s = .next (refuseOp r s) ∧ exec (.flush off) s = .next (refuseOp r s) := by
  constructor
  · rw [exec, execRd32, whenAtRest_of_atRest hr, readThen, h]
  · rw [exec, execFlush, whenAtRest_of_atRest hr, readThen, h]

end

/-- Settles O20, one check after the other. -/
theorem accessChecksInOrder : Obligations.AccessChecksInOrder := by
  intro s off w hr
  refine ⟨?noWindow, ?misaligned, ?badOffset, ?unmodelled, ?reserved⟩
  case noWindow =>
    intro hm
    exact ⟨exec_wr32_of_fault hr (checkAccess_of_not_mapped _ hm), exec_reads_of_fault hr (checkAccess_of_not_mapped _ hm)⟩
  case misaligned =>
    intro hm ha
    have hcheck := fun v => checkAccess_of_misaligned hm v ha
    exact ⟨exec_wr32_of_fault hr (hcheck _), exec_reads_of_fault hr (hcheck _)⟩
  case badOffset =>
    intro hm ha hpast
    have hcheck := fun v => checkAccess_of_past_window hm v ha hpast
    exact ⟨exec_wr32_of_fault hr (hcheck _), exec_reads_of_fault hr (hcheck _)⟩
  case unmodelled =>
    intro hm ha hin hi2c hddc
    have hcheck := fun v => checkAccess_of_unmodelled hm v ha hin hi2c hddc
    exact ⟨exec_wr32_of_refuse hr (hcheck _), exec_reads_of_refuse hr (hcheck _)⟩
  case reserved =>
    intro hm hoff hw
    have hcheck := fun b => checkAccess_of_reserved hm b (bitSet_reservedMask_iff.2 hw)
    obtain rfl | rfl := hoff
    · exact exec_wr32_of_refuse hr (hcheck .i2c)
    · exact exec_wr32_of_refuse hr (hcheck .ddc)

/-! ### A legal write under any name -/

/-- The write of a legal word joins the queue of its bus, whatever its name (R143). -/
theorem exec_of_isWrite {i : Instr} {b : Bus} {w : Word} {s : State} (h : i.IsWrite (Config.off b) w)
    (hr : s.agent s.actor = .atRest) (hm : s.win.status = .mapped) (hw : bitSet w Config.reservedMask = false) :
    exec i s = .next (postWrite b (Config.off b) w s) := by
  rw [h.run, exec, execWr32, whenAtRest_of_atRest hr, writeThen_off b id hm hw, id]

/-- Every bit of a `CTL` word (R102). -/
theorem ctlWord_getLsbD (clk dat : LineCtl) {i : Nat} (hi : i < 32) :
    (ctlWord clk dat).getLsbD i =
      ((clk.dirEnable && decide (i = 0)) || (clk.dirOut && decide (i = 1)) ||
        (clk.valEnable && decide (i = 2)) || (clk.valHigh && decide (i = 3)) ||
      ((dat.dirEnable && decide (i = 8)) || (dat.dirOut && decide (i = 9)) ||
        (dat.valEnable && decide (i = 10)) || (dat.valHigh && decide (i = 11)))) := by
  rw [ctlWord, BitVec.getLsbD_or, lineWord_getLsbD .clk clk i hi, lineWord_getLsbD .dat dat i hi]
  rfl

/-- Settles O19: each form is the write of a legal word, and the fields of a `CTL` word are those it was given. -/
theorem controlWordFormsQueueTheirWords : Obligations.ControlWordFormsQueueTheirWords := by
  intro s b hr hm off queued
  have hoff : Config.off b = off := by cases b <;> rfl
  have hqueue {i : Instr} {w : Word} (h : i.IsWrite (Config.off b) w) (hw : bitSet w Config.reservedMask = false) :
      exec i s = queued w := by
    rw [exec_of_isWrite h hr hm hw, hoff]; rfl
  have hnamed (w : Word) (hw : bitSet w Config.reservedMask = false) : exec (nameWord b w) s = queued w :=
    hqueue (.of_nameWord b hw) hw
  refine ⟨hnamed (setWord .clk true) (setWord_legal _ _), hnamed (setWord .clk false) (setWord_legal _ _),
    hnamed (setWord .dat true) (setWord_legal _ _), hnamed (setWord .dat false) (setWord_legal _ _),
    hnamed (relWord .clk) (relWord_legal _), hnamed (relWord .dat) (relWord_legal _),
    hnamed latchWord latchWord_legal, fun clk dat => ⟨ctlWord clk dat, ?ctl⟩⟩
  case ctl =>
    have hlegal := ctlWord_legal clk dat
    refine ⟨hqueue (.wr32Ctl b clk dat) hlegal, ?_, ?_, ?_, ?_, ?_, ?_, ?_, ?_, and_reservedMask_eq_zero hlegal⟩
    all_goals
      rw [ctlWord_getLsbD clk dat (by decide)]
      simp

end Sys2Proof.Machine
end

section
/-! SUPPORT. Capturing and reading a control word (40_register_window.md R145, R148): what `captured` leaves in each of
its cases, that a sample is one of the level, and every bit of the word a read returns. With them the claims about both. -/

namespace Sys2Proof.Machine

/-! ### Capturing (R145) -/

/-- A sample that takes a draw numbered in the range is a sample of its level (41_line_driver.md R187). -/
theorem isSample_sampleOf {lv : Level} {lo hi n : Nat} (hlo : lo ≤ n) (hhi : n < hi) :
    IsSample lv lo hi (sampleOf lv (Config.freeDraw n)) := by
  cases lv with
  | zero => exact ⟨fun _ => rfl, nofun, nofun⟩
  | one => exact ⟨nofun, fun _ => rfl, nofun⟩
  | x => exact ⟨nofun, nofun, fun _ => ⟨n, hlo, hhi, rfl⟩⟩

section
variable {glitch : Bool} {w : Word} {d : Drive} (lv : Level) (choice x : Bool) (old : Option Bool)

theorem captured_of_sampled (hw : w = latchWord) (h : ¬(glitch = true ∧ (d = .low ∨ d = .high))) :
    captured glitch w d lv choice x old = some (sampleOf lv x) := by
  rw [captured, if_pos hw, if_neg (by simpa [and_comm] using h)]

theorem captured_of_glitched (hw : w = latchWord) (hg : glitch = true) (hd : d = .low ∨ d = .high) :
    captured glitch w d lv choice x old = some choice := by
  rw [captured, if_pos hw, if_pos (by simpa [hg] using hd)]

theorem captured_of_nonzero (hw : w ≠ latchWord) :
    captured glitch w d lv choice x old = if choice then some (sampleOf lv x) else old :=
  if_neg hw

end

/-- Settles O12, by the cases of a capture; each line takes two of the performance's four draws. -/
theorem captureAtPerformance : Obligations.CaptureAtPerformance := by
  intro glitch s b l w t
  have hinl : t.inl.get b l = _ := performWith_inl_get glitch b w s l
  have hdraws : t.draws = s.draws + 4 := performWith_draws glitch b w s
  have hline : lineIndex l ≤ 1 := by cases l <;> decide
  have hsample : IsSample (t.level b l) s.draws t.draws
      (sampleOf (t.level b l) (Config.freeDraw (s.draws + 2 * lineIndex l + 1))) :=
    isSample_sampleOf (by omega) (by omega)
  refine ⟨?sampled, ?glitched, ?nonzero, ?otherBus, rfl, rfl, rfl⟩
  case sampled => exact fun hw hg => ⟨_, hinl.trans (captured_of_sampled _ _ _ _ hw hg), hsample⟩
  case glitched =>
    exact fun hw hg hd =>
      ⟨s.draws + 2 * lineIndex l, by omega, by omega, hinl.trans (captured_of_glitched _ _ _ _ hw hg hd)⟩
  case nonzero =>
    exact fun hw =>
      ⟨s.draws + 2 * lineIndex l, _, by omega, by omega, hsample, hinl.trans (captured_of_nonzero _ _ _ _ hw)⟩
  case otherBus => exact fun b' hb => performWith_inl_get_ne glitch w s l hb

/-! ### Reading (R148) -/

/-- Every bit of the word of `ReadValue`. -/
theorem readValue_getLsbD (b : Bus) (s : State) (i : Nat) :
    (readValue b s).getLsbD i =
      if i = 4 then (s.inl.get b .clk).getD (Config.freeDraw s.draws)
      else if i = 12 then (s.inl.get b .dat).getD (Config.freeDraw (s.draws + 1))
      else (Config.freeWord s.draws).getLsbD i := by
  have hword : readValue b s =
      (Config.freeWord s.draws &&& ~~~(BitVec.twoPow 32 4 ||| BitVec.twoPow 32 12)) |||
      (if (s.inl.get b .clk).getD (Config.freeDraw s.draws) then BitVec.twoPow 32 4 else 0#32) |||
      (if (s.inl.get b .dat).getD (Config.freeDraw (s.draws + 1)) then BitVec.twoPow 32 12 else 0#32) := rfl
  obtain hi | hi := Nat.lt_or_ge i 32
  · rw [hword, BitVec.getLsbD_or, BitVec.getLsbD_or, ite_twoPow_getLsbD _ _ _ hi, ite_twoPow_getLsbD _ _ _ hi]
    by_cases h4 : i = 4
    · simp [h4]
    by_cases h12 : i = 12
    · simp [h12]
    · simp [h4, h12, hi]
  · rw [BitVec.getLsbD_of_ge _ i hi, BitVec.getLsbD_of_ge _ i hi, if_neg (by omega), if_neg (by omega)]

/-- Settles O14, bit by bit. -/
theorem readValueShowsInputLatches : Obligations.ReadValueShowsInputLatches := by
  intro s b
  simp only [readValue_getLsbD]
  refine ⟨?clk, ?dat, ?clkDraw, ?datDraw, ?others⟩
  case clk => exact fun v h => by simp [h]
  case dat => exact fun v h => by simp [h]
  case clkDraw => exact fun h => by simp [h]
  case datDraw => exact fun h => by simp [h]
  case others => exact fun i h4 h12 => by rw [if_neg h4, if_neg h12]

end Sys2Proof.Machine
end

section
/-! SUPPORT. The accesses of an agent at rest that pass the checks (40_register_window.md R143, R147, R149), and a held
access tried again. With them the claims about `WR32`, `RD32` and `FLUSH`. -/

namespace Sys2Proof.Machine

/-! ### From rest -/

/-- Settles O18: the operation is the write of a legal word. -/
theorem wr32QueuesLegalWord : Obligations.Wr32QueuesLegalWord :=
  fun _ b w hr hm hw => exec_of_isWrite (.wr32 (Config.off b) w) hr hm (bne_eq_false_iff_eq.2 hw)

theorem setTask_of_atRest {s : State} (hr : s.agent s.actor = .atRest) (k : Task) :
    s.setTask k = s.setAgent s.actor { AgentRec.atRest with task := k } := by
  rw [State.setTask, State.setMe, State.me, hr]

section
variable {s : State} {b : Bus}

theorem exec_rd32_off (hr : s.agent s.actor = .atRest) (hm : s.win.status = .mapped) :
    exec (.rd32 (Config.off b)) s =
      if s.pend.get b = [] then
        .next (deliver (.word (readValue b s)) (noteRead (Config.off b) (readValue b s) s))
      else .next (s.setTask (.waiting (.read (Config.off b)))) := by
  rw [exec, execRd32, whenAtRest_of_atRest hr, readThen_off b _ _ hm]

theorem exec_flush_off (hr : s.agent s.actor = .atRest) (hm : s.win.status = .mapped) :
    exec (.flush (Config.off b)) s =
      if s.pend.get b = [] then .next (noteRead (Config.off b) (readValue b s) s)
      else .next (s.setTask (.waiting (.flush (Config.off b)))) := by
  rw [exec, execFlush, whenAtRest_of_atRest hr, readThen_off b _ _ hm]

end

/-- Settles O22: with nothing pending the read completes and its word is delivered. -/
theorem rd32ReturnsControlWord : Obligations.Rd32ReturnsControlWord :=
  fun _ _ hr hm hp => (exec_rd32_off hr hm).trans (if_pos hp)

/-- Settles O23: with nothing pending the read completes, and nothing is delivered. -/
theorem flushReadsAndDiscards : Obligations.FlushReadsAndDiscards :=
  fun _ _ hr hm hp => (exec_flush_off hr hm).trans (if_pos hp)

/-- Settles O24: with a write pending either access leaves its caller waiting in it. -/
theorem pendingWritesHoldReads : Obligations.PendingWritesHoldReads := by
  intro s b hr hm hp
  constructor
  · rw [exec_rd32_off hr hm, if_neg hp, setTask_of_atRest hr]
  · rw [exec_flush_off hr hm, if_neg hp, setTask_of_atRest hr]

/-! ### A held access tried again (assumption log 10) -/

section
variable {s : State} {a : AgentId} {op : HeldOp}

theorem microStep_of_waiting (h : s.me = { AgentRec.atRest with task := .waiting op }) :
    microStep s = retryHeld op s := by
  simp only [microStep, h, AgentRec.atRest, Bool.false_eq_true, if_false]

theorem runEvent_micro_of_waiting (h : s.agent a = { AgentRec.atRest with task := .waiting op }) :
    runEvent (.micro a) s = retryHeld op { s with actor := a } :=
  microStep_of_waiting (s := { s with actor := a }) h

end

/-- An agent that ends what it waited in is at rest again. -/
theorem setTask_none_agent_self {s : State} {k : Task} (hwf : agentsWf s.agents = true)
    (h : s.me = { AgentRec.atRest with task := k }) : (s.setTask .none).agent s.actor = .atRest := by
  rw [State.setTask, State.setMe, setAgent_agent_self _ _ _ hwf, h]
  rfl

theorem setTask_agent_ne (s : State) (k : Task) {a : AgentId} (h : a ≠ s.actor) :
    (s.setTask k).agent a = s.agent a :=
  setAgent_agent_ne s _ h

/-- Settles O25: the read is tried again, holds while its queue is not empty, and then completes. -/
theorem heldReadCompletesWhenDrained : Obligations.HeldReadCompletesWhenDrained := by
  intro s a b hinv hm
  refine ⟨fun h => ?read, fun h => ?flush⟩ <;> rw [runEvent_micro_of_waiting h]
  case read =>
    have hretry := readThen_off (s := { s with actor := a }) b id
      (fun v t => (deliver (.word v) t).setTask .none) hm
    exact ⟨fun hp => hretry.trans (if_neg hp), fun hp => ⟨_, hretry.trans (if_pos hp),
      setTask_none_agent_self hinv.agentList h, fun _ ha => setTask_agent_ne _ _ ha, rfl, rfl⟩⟩
  case flush =>
    have hretry := readThen_off (s := { s with actor := a }) b id (fun _ t => t.setTask .none) hm
    exact ⟨fun hp => hretry.trans (if_neg hp), fun hp => ⟨_, hretry.trans (if_pos hp),
      setTask_none_agent_self hinv.agentList h, fun _ ha => setTask_agent_ne _ _ ha, rfl, rfl⟩⟩

end Sys2Proof.Machine
end

section
/-! SUPPORT. Opening and closing the window (40_register_window.md R140 to R142, R150): the window address in closed
form, one equation per case of `OPEN` and of `CLOSE`. With them the claims about the window, and about who is busy. -/

namespace Sys2Proof.Machine

/-! ### The window address (R141) -/

/-- The mask has the bits of the width from bit 12 on. -/
theorem pageMask_testBit {width : Nat} (hw : 12 ≤ width) (i : Nat) :
    (pageMask width).testBit i = (decide (12 ≤ i) && decide (i < width)) := by
  have hpage : (Config.pageSize - 1).testBit i = decide (i < 12) := Nat.testBit_two_pow_sub_one 12 i
  rw [pageMask, Nat.testBit_xor, Nat.testBit_two_pow_sub_one, hpage]
  by_cases h : i < 12
  · have hlt : i < width := by omega
    simp [h, hlt]
  · simp [h, Nat.not_lt.1 h]

theorem and_pageMask {width n : Nat} (hw : 12 ≤ width) (hn : n < 2 ^ width) :
    n &&& pageMask width = n - n % Config.pageSize := by
  have hround : n - n % Config.pageSize = 2 ^ 12 * (n / 2 ^ 12) := by
    simp only [Config.pageSize]
    omega
  rw [hround]
  refine Nat.eq_of_testBit_eq fun i => ?_
  rw [Nat.testBit_and, pageMask_testBit hw, Nat.testBit_two_pow_mul, Nat.testBit_div_two_pow]
  by_cases hi : 12 ≤ i
  · rw [Nat.sub_add_cancel hi]
    obtain hlt | hge := Nat.lt_or_ge i width
    · simp [hi, hlt]
    · simp [Nat.testBit_lt_two_pow (hn.trans_le (Nat.pow_le_pow_right (by decide) hge))]
  · simp [hi]

theorem windowAddress_of_overflow {width phys : Nat} (h : 2 ^ width ≤ phys + Config.ioControlOffset) :
    windowAddress width phys = (false, phys + Config.ioControlOffset) :=
  if_pos h

theorem windowAddress_of_fits {width phys : Nat} (hw : 12 ≤ width) (h : phys + Config.ioControlOffset < 2 ^ width) :
    windowAddress width phys =
      (true, phys + Config.ioControlOffset - (phys + Config.ioControlOffset) % Config.pageSize) := by
  rw [← and_pageMask hw h]
  exact if_neg (Nat.not_le.2 h)

/-- Settles O49, by whether the sum fits the width. -/
theorem windowAddressRoundsDown : Obligations.WindowAddressRoundsDown :=
  fun _ _ hw => ⟨windowAddress_of_overflow, windowAddress_of_fits (Nat.le_trans (by decide) hw)⟩

/-! ### `OPEN` and the first step of `ATTACH` (R140, R142) -/

section
variable {s : State} {phys : Nat} (onOk : State → State)

theorem openThen_of_mapped (h : s.win.status = .mapped) :
    openThen phys onOk s = .next (raiseFault (.doubleOpen s.win.base) s) :=
  if_pos h

theorem openThen_of_invalid {sum : Nat} (hn : s.win.status ≠ .mapped)
    (ha : windowAddress Config.physAddrWidth phys = (false, sum)) :
    openThen phys onOk s = .next (deliver (.mapError sum) s) := by
  rw [openThen, if_neg hn, ha]

theorem openThen_of_valid {address : Nat} (hn : s.win.status ≠ .mapped)
    (ha : windowAddress Config.physAddrWidth phys = (true, address)) :
    openThen phys onOk s = .next (if Config.mapOracle address Config.windowLen s.trace
      then onOk { s with win := { status := .mapped, base := some address } }
      else deliver (.mapError address) s) := by
  rw [openThen, if_neg hn, ha]
  exact (apply_ite _ _ _ _).symm

theorem exec_openWin (hr : s.agent s.actor = .atRest) : exec (.openWin phys) s = openThen phys (deliver .ok) s :=
  whenAtRest_of_atRest hr

theorem exec_attach (hr : s.agent s.actor = .atRest) :
    exec (.attach phys) s = openThen phys (fun t => t.setTask (.attach .initI2cClk)) s :=
  whenAtRest_of_atRest hr

end

/-- Settles O50, by whether the sum fits the width; the first step of `ATTACH` differs in what follows a mapping. -/
theorem openAndAttachMapTheWindow : Obligations.OpenAndAttachMapTheWindow := by
  intro s phys hr hn sum base mapped failed
  rw [exec_openWin hr, exec_attach hr]
  refine ⟨fun hfits => ?valid, fun hover => ?invalid⟩
  case valid =>
    have ha : windowAddress Config.physAddrWidth phys = (true, base) :=
      windowAddress_of_fits (Nat.le_trans (by decide) (Nat.le_add_right 16 _)) hfits
    have htask := setTask_of_atRest (s := mapped) hr (.attach .initI2cClk)
    refine ⟨openThen_of_valid _ hn ha, ?_⟩
    rw [← htask]
    exact openThen_of_valid _ hn ha
  case invalid =>
    have ha := windowAddress_of_overflow (phys := phys) hover
    exact ⟨openThen_of_invalid _ hn ha, openThen_of_invalid _ hn ha⟩

/-- Settles O51: either operation looks at the window first. -/
theorem secondOpenFaults : Obligations.SecondOpenFaults := by
  intro s phys hr hm
  rw [exec_openWin hr, exec_attach hr]
  exact ⟨openThen_of_mapped _ hm, openThen_of_mapped _ hm⟩

/-! ### `CLOSE` (R150) -/

theorem pending_iff {s : State} : (s.pend.i2c ≠ [] ∨ s.pend.ddc ≠ []) ↔ ∃ b, s.pend.get b ≠ [] := by
  constructor
  · rintro (h | h)
    · exact ⟨.i2c, h⟩
    · exact ⟨.ddc, h⟩
  · rintro ⟨_ | _, h⟩
    · exact .inl h
    · exact .inr h

section
variable {s : State} (held k : State → State)

theorem closeThen_of_not_mapped (hn : s.win.status ≠ .mapped) : closeThen held k s = .next (k s) :=
  if_pos hn

theorem closeThen_of_in_use (hm : s.win.status = .mapped) (hu : s.buses ≠ [] ∨ s.busyAgents ≠ []) :
    closeThen held k s =
      .next (raiseFault (.teardownOrder (s.buses.map LogicalBus.name) s.busyAgents) s) := by
  rw [closeThen, if_neg (not_not.2 hm), if_pos hu]

theorem closeThen_of_unused (hm : s.win.status = .mapped) (hb : s.buses = []) (hy : s.busyAgents = []) :
    closeThen held k s = if s.pend.i2c ≠ [] ∨ s.pend.ddc ≠ [] then .next (held s)
      else .next (k { s with win := { status := .closed, base := none } }) := by
  rw [closeThen, if_neg (not_not.2 hm), if_neg (not_or.2 ⟨not_not.2 hb, not_not.2 hy⟩)]

theorem closeThen_of_pending (hm : s.win.status = .mapped) (hb : s.buses = []) (hy : s.busyAgents = [])
    (hp : ∃ b, s.pend.get b ≠ []) : closeThen held k s = .next (held s) :=
  (closeThen_of_unused held k hm hb hy).trans (if_pos (pending_iff.2 hp))

theorem closeThen_of_drained (hm : s.win.status = .mapped) (hb : s.buses = []) (hy : s.busyAgents = [])
    (hp : ∀ b, s.pend.get b = []) :
    closeThen held k s = .next (k { s with win := { status := .closed, base := none } }) :=
  (closeThen_of_unused held k hm hb hy).trans (if_neg fun h => by
    obtain ⟨b, hne⟩ := pending_iff.1 h
    exact hne (hp b))

end

/-- Settles O52, by the cases of `CLOSE`. -/
theorem closeUnmapsTheWindow : Obligations.CloseUnmapsTheWindow := by
  intro s hr
  rw [exec, execClose, whenAtRest_of_atRest hr, ← setTask_of_atRest hr]
  exact ⟨closeThen_of_not_mapped _ _, closeThen_of_in_use _ _, closeThen_of_pending _ _, closeThen_of_drained _ _⟩

/-- Settles O53: the `CLOSE` is tried again, holds while a write is pending, and then closes the window. -/
theorem heldCloseCompletesWhenDrained : Obligations.HeldCloseCompletesWhenDrained := by
  intro s a hinv hm hb hy h
  rw [runEvent_micro_of_waiting h, retryHeld]
  exact ⟨closeThen_of_pending (s := { s with actor := a }) id _ hm hb hy, fun hp =>
    ⟨_, closeThen_of_drained (s := { s with actor := a }) id _ hm hb hy hp,
      setTask_none_agent_self hinv.agentList h, fun _ ha => setTask_agent_ne _ _ ha, rfl⟩⟩

/-! ### Who is busy (10_state.md R43) -/

theorem SeqState.isBusy_iff {q : SeqState} : q.isBusy = true ↔ ∃ p b k r, q = .busy p b k r := by
  cases q <;> simp [isBusy]

/-- Settles O54: the busy agents by the canonical list, the turn by where an `ATTACH` stands outside its primitives. -/
theorem busyAgentsAreThoseInPrimitives : Obligations.BusyAgentsAreThoseInPrimitives := by
  intro s a
  refine ⟨?busy, ?turn, ?noTurn⟩
  case busy => exact fun hinv => (busyAgents_mem hinv.agentList).trans SeqState.isBusy_iff
  case turn => exact fun hturn => betweenPrims_iff.1 (attachTurn_some hturn)
  case noTurn =>
    intro hturn st ht hs hq
    have hbetween := betweenPrims_iff.2 ⟨hq, ⟨st, ht⟩, hs⟩
    rw [attachTurn_none hturn a] at hbetween
    cases hbetween

end Sys2Proof.Machine
end

section
/-! SUPPORT. The four lines (41_line_driver.md R181 to R187): what the line update and the steps of the environment
leave on them, and how a line comes to level 1 and keeps it. With them the claims about the tables, the line update
and the environment. -/

namespace Sys2Proof.Machine

/-! ### Drive and level (R181, R182) -/

/-- Settles O15: each row is a row of `driveOf` or of `levelOf`. -/
theorem driveAndLevelTables : Obligations.DriveAndLevelTables := by
  intro s b l
  simp only [State.level]
  refine ⟨fun hdir => ?_, fun hdir => ?_, fun hdir hout => ?_, fun hdir hout => ?_, fun hdir hout => ?_,
    fun hd => ?low, fun hd => ?unknown, fun hd => ?high, fun hd => ?released⟩
  case low | unknown => rw [hd]; rfl
  case high => rw [hd]; cases s.peerLow.get b l <;> rfl
  case released => rw [hd]; cases s.peerLow.get b l <;> cases s.settled.get b l <;> rfl
  all_goals simp only [State.drive, driveOf, *]

/-! ### The line update (R183) -/

theorem settledOf_of_unsettled {d : Drive} {p : Bool} (old : Bool) (h : ¬((d = .high ∨ d = .released) ∧ p = false)) :
    settledOf d p old = false := by
  cases d with
  | low | unknown => rfl
  | high | released =>
    cases p with
    | true => rfl
    | false => exact absurd ⟨by simp, rfl⟩ h

/-- Settles O16, by the rows of `settledOf`; a performance and a peer step run the update by definition. -/
theorem lineUpdateSettlesLines : Obligations.LineUpdateSettlesLines := by
  intro s b l
  rw [lineUpdate_settled_get]
  refine ⟨fun hd hp => ?_, fun hd hp => ?_, settledOf_of_unsettled _, rfl, fun _ _ => rfl, fun _ _ _ => rfl⟩
  all_goals rw [hd, hp]; rfl

/-! ### The steps of the environment (R184 to R186) -/

theorem settleStep_of_not_enabled {b : Bus} {l : Line} {s : State} (h : settleEnabled b l s = false) :
    settleStep b l s = s := by
  rw [settleStep, h, Bool.false_or, PerLine.set_get]

theorem settleStep_settled_of_released {b : Bus} {l : Line} {s : State} (hd : s.drive b l = .released)
    (hp : s.peerLow.get b l = false) : (settleStep b l s).settled.get b l = true := by
  rw [settleStep_settled_get_self, settleEnabled, hd, hp]
  cases s.settled.get b l <;> rfl

theorem sampleStepWith_inl_get_self (sp : Bool) (b : Bus) (l : Line) (s : State) :
    (sampleStepWith sp b l s).inl.get b l =
      if sp then some (sampleOf (s.level b l) (Config.freeDraw s.draws)) else s.inl.get b l :=
  PerLine.get_set_self _ b l _

/-- Settles O17, step by step: the peer, the settling line, and the sample for both values of the parameter. -/
theorem environmentStepsAsSpecified : Obligations.EnvironmentStepsAsSpecified := by
  intro s b l
  refine ⟨fun low => ⟨_, rfl, PerLine.get_set_self _ b l low, fun _ _ h => PerLine.get_set_ne _ _ h,
      fun b' l' => lineUpdate_settled_get _ b' l', rfl⟩,
    ⟨_, rfl, settleStep_settled_of_released, fun h => ?idle, fun _ _ h => settleStep_settled_get_ne s h, rfl⟩,
    rfl, fun sp => ⟨_, rfl, fun hsp => ?sampled, fun hsp => ?kept, fun _ _ h => PerLine.get_set_ne _ _ h, rfl⟩⟩
  case idle =>
    refine settleStep_of_not_enabled (Bool.eq_false_iff.2 fun he => h ?_)
    obtain ⟨hd, hp, -⟩ := settleEnabled_iff.1 he
    exact ⟨hd, hp⟩
  case sampled =>
    exact ⟨_, (sampleStepWith_inl_get_self sp b l s).trans (if_pos hsp),
      isSample_sampleOf (Nat.le_refl _) (Nat.lt_succ_self _)⟩
  case kept => rw [hsp]; exact PerLine.set_get _ b l

/-! ### A line that stays at level 1 -/

/-- The line is settled and free of peers, and driven high or released: it is at level 1, and to release it leaves it
there. -/
structure State.High (b : Bus) (l : Line) (s : State) : Prop where
  noPeer : s.peerLow.get b l = false
  settled : s.settled.get b l = true
  drive : s.drive b l = .high ∨ s.drive b l = .released

theorem level_of_high_drive {b : Bus} {l : Line} {s : State} (hd : s.drive b l = .high)
    (hp : s.peerLow.get b l = false) : s.level b l = .one :=
  levelOf_eq_one.2 ⟨hp, .inl hd⟩

theorem State.High.level {b : Bus} {l : Line} {s : State} (h : s.High b l) : s.level b l = .one :=
  levelOf_eq_one.2 ⟨h.noPeer, h.drive.imp_right fun hd => ⟨hd, h.settled⟩⟩

/-- The settle bit of a line driven high is set, since the settle bits agree with the drives (R183). -/
theorem high_of_level {b : Bus} {l : Line} {s : State} (hinv : s.Inv) (h : s.level b l = .one) : s.High b l := by
  obtain ⟨hp, hd⟩ := levelOf_eq_one.1 h
  refine ⟨hp, ?_, hd.imp_right And.left⟩
  obtain hd | ⟨-, hs⟩ := hd
  · rw [hinv.lines b l, hd, hp]; rfl
  · exact hs

theorem settledOf_of_high {d : Drive} (hd : d = .high ∨ d = .released) : settledOf d false true = true := by
  obtain rfl | rfl := hd <;> rfl

/-- An update of the settle bits that finds the line still high leaves it so. -/
theorem State.High.of_settledOf {b : Bus} {l : Line} {s t : State} (h : s.High b l)
    (hd : t.drive b l = .high ∨ t.drive b l = .released) (hp : t.peerLow.get b l = false)
    (hs : t.settled.get b l = settledOf (t.drive b l) (t.peerLow.get b l) (s.settled.get b l)) : t.High b l :=
  ⟨hp, by rw [hs, hp, h.settled, settledOf_of_high hd], hd⟩

/-! ### The line at a performance -/

theorem performWrite_dir_of_disabled {b : Bus} {l : Line} {w : Word} (s : State)
    (h : (lineFields w l).dirEnable = false) : (performWrite b w s).dir.get b l = s.dir.get b l := by
  rw [lineFields_dirEnable] at h
  exact (performWith_dir_get _ b w s b l).trans (if_neg (by simp [h]))

theorem performWrite_out_of_disabled {b : Bus} {l : Line} {w : Word} (s : State)
    (h : (lineFields w l).valEnable = false) : (performWrite b w s).out.get b l = s.out.get b l := by
  rw [lineFields_valEnable] at h
  exact (performWith_out_get _ b w s b l).trans (if_neg (by simp [h]))

theorem performWrite_dir_of_enabled {b : Bus} {l : Line} {w : Word} (s : State)
    (h : (lineFields w l).dirEnable = true) :
    (performWrite b w s).dir.get b l = some (if (lineFields w l).dirOut then .output else .input) := by
  rw [lineFields_dirEnable] at h
  rw [lineFields_dirOut]
  exact (performWith_dir_get _ b w s b l).trans (if_pos ⟨rfl, h⟩)

theorem performWrite_out_of_enabled {b : Bus} {l : Line} {w : Word} (s : State)
    (h : (lineFields w l).valEnable = true) :
    (performWrite b w s).out.get b l = some (lineFields w l).valHigh := by
  rw [lineFields_valEnable] at h
  rw [lineFields_valHigh]
  exact (performWith_out_get _ b w s b l).trans (if_pos ⟨rfl, h⟩)

theorem touches_eq_false_iff {l : Line} {w : Word} :
    touches l w = false ↔ (lineFields w l).dirEnable = false ∧ (lineFields w l).valEnable = false :=
  Bool.or_eq_false_iff

/-- A performance of a word that leaves the line alone, or releases it, leaves it high. -/
theorem State.High.performWrite {b : Bus} {l : Line} {s : State} {w : Word} (h : s.High b l)
    (hw : touches l w = true → w = relWord l) : (performWrite b w s).High b l := by
  refine h.of_settledOf ?_ h.noPeer (performWith_settled_get _ b w s b l)
  cases ht : touches l w with
  | true => rw [hw ht]; exact .inr (performWith_drive_relWord _ b s l)
  | false => rw [Machine.performWrite, performWith_drive_of_not_touches _ b s ht b]; exact h.drive

theorem performWrite_inl_of_latchWord {b : Bus} {l : Line} {s : State}
    (hd : (performWrite b latchWord s).drive b l = .released) :
    (performWrite b latchWord s).inl.get b l =
      some (sampleOf ((performWrite b latchWord s).level b l) (Config.freeDraw (s.draws + 2 * lineIndex l + 1))) := by
  refine (performWith_inl_get _ b latchWord s l).trans (captured_of_sampled _ _ _ _ rfl ?_)
  rintro ⟨-, h⟩
  rw [performWrite] at hd
  rw [hd] at h
  obtain h | h := h <;> cases h

/-- A capture from a high and released line leaves a set input latch set, whatever the word. -/
theorem performWrite_inl_of_high {b : Bus} {l : Line} {w : Word} {s : State} (hinl : s.inl.get b l = some true)
    (hd : (performWrite b w s).drive b l = .released) (hh : (performWrite b w s).High b l) :
    (performWrite b w s).inl.get b l = some true := by
  by_cases hw : w = latchWord
  · subst hw
    rw [performWrite_inl_of_latchWord hd, hh.level]
    rfl
  · refine (performWith_inl_get _ b w s l).trans ((captured_of_nonzero _ _ _ _ hw).trans ?_)
    have hone : (performWith Config.siblingGlitch b w s).level b l = .one := hh.level
    rw [hone, hinl, sampleOf, ite_self]

theorem inputBit_readValue {b : Bus} {l : Line} {s : State} {v : Bool} (h : s.inl.get b l = some v) :
    inputBit l (readValue b s) = v := by
  rw [inputBit, bitSet_i, readValue_getLsbD]
  cases l <;> simp [lineBase, h]

end Sys2Proof.Machine
end

section
/-! SUPPORT. A primitive from its start to its return (41_line_driver.md R189 to R192, R195): what each of its steps and
each performance between them leaves, and with it the claims about a whole `SET_*` and a whole `GET_*`. -/

namespace Sys2Proof.Machine

/-! ### The accesses of one micro-step (R195) -/

/-- An entry of the observation that is no access, or one by agent `a` at the offset of bus `b`. -/
def AccessOn (a : AgentId) (b : Bus) : Obs → Prop
  | .write a' off _ | .read a' off _ => a' = a ∧ off = Config.off b
  | .perform _ _ | .returned _ _ | .refused _ _ => True

/-- From `s` to `t` the acting agent's accesses are on bus `b`, and the other queue is untouched. -/
def State.StaysOn (b : Bus) (s t : State) : Prop :=
  (∀ b', b' ≠ b → t.pend.get b' = s.pend.get b') ∧
  ∃ new, t.trace = new ++ s.trace ∧ ∀ o ∈ new, AccessOn s.actor b o

section
variable {b : Bus} {s t : State}

theorem State.StaysOn.silent (hp : t.pend = s.pend) (ht : t.trace = s.trace) : s.StaysOn b t :=
  ⟨fun _ _ => by rw [hp], [], ht, fun _ ho => absurd ho List.not_mem_nil⟩

theorem State.StaysOn.one {o : Obs} (hp : ∀ b', b' ≠ b → t.pend.get b' = s.pend.get b')
    (ht : t.trace = o :: s.trace) (ho : AccessOn s.actor b o) : s.StaysOn b t :=
  ⟨hp, [o], ht, fun _ h => List.mem_singleton.1 h ▸ ho⟩

theorem returnPrim_staysOn {p : Prim} {r : Option Word} (h : returnPrim p r s = .next t) : s.StaysOn b t := by
  unfold returnPrim at h
  split at h
  · cases h; exact .silent rfl rfl
  · cases h; exact .silent rfl rfl
  · cases h; exact .one (fun _ _ => rfl) rfl trivial
  · cases h

theorem primStep_staysOn {p : Prim} {k : Nat} {r : Option Word} (h : primStep p b k r s = .next t) :
    s.StaysOn b t := by
  unfold primStep at h
  split at h
  · obtain ⟨_, rfl⟩ | ⟨_, rfl⟩ | ⟨b', hb, -, -, rfl⟩ := writeThen_next h
    · exact .silent rfl rfl
    · exact .one (fun _ _ => rfl) rfl trivial
    · obtain rfl := off_injective hb
      exact .one (fun _ hne => PerBus.get_set_ne _ _ hne) rfl ⟨rfl, rfl⟩
  · obtain ⟨_, rfl⟩ | ⟨_, rfl⟩ | ⟨_, -, -, ⟨-, rfl⟩ | ⟨-, rfl⟩⟩ := readThen_next h
    · exact .silent rfl rfl
    · exact .one (fun _ _ => rfl) rfl trivial
    · exact .one (fun _ _ => rfl) rfl ⟨rfl, rfl⟩
    · exact .silent rfl rfl
  · split at h
    · exact returnPrim_staysOn h
    · cases h

/-- A micro-step of an agent in a primitive is one of the primitive, or none where the agent has stopped. -/
theorem microStep_busy_next {p : Prim} {k : Nat} {r : Option Word} (hq : s.me.seq = .busy p b k r)
    (h : microStep s = .next t) : t = s ∨ primStep p b k r s = .next t := by
  cases hs : s.me.stopped with
  | true =>
    rw [microStep, if_pos hs] at h
    cases h
    exact .inl rfl
  | false => exact .inr ((microStep_of_busy hq hs).symm.trans h)

end

/-- Settles O43: a stopped agent makes no access, and a micro-step of the primitive stays on its bus. -/
theorem primitivesStayOnTheirBus : Obligations.PrimitivesStayOnTheirBus := by
  intro s t a p b k r hq hrun
  have hstays : ({ s with actor := a } : State).StaysOn b t := by
    obtain rfl | h := microStep_busy_next (s := { s with actor := a }) hq hrun
    · exact .silent rfl rfl
    · exact primStep_staysOn h
  obtain ⟨hp, new, ht, hnew⟩ := hstays
  exact ⟨hp, new, ht, fun _ _ _ ho => hnew _ ho, fun _ _ _ ho => hnew _ ho⟩

/-! ### What a primitive leaves of the rest -/

/-- What a step of agent `a` in a primitive on bus `b`, or a performance there, leaves: the other bus, the other agents,
and everything that is no latch of `b`. -/
structure State.Frame (a : AgentId) (b : Bus) (s t : State) : Prop where
  otherBus : ∀ b' l', b' ≠ b → t.dir.get b' l' = s.dir.get b' l' ∧ t.out.get b' l' = s.out.get b' l' ∧
    t.inl.get b' l' = s.inl.get b' l' ∧ t.pend.get b' = s.pend.get b'
  otherAgents : ∀ a', a' ≠ a → t.agent a' = s.agent a'
  win : t.win = s.win
  buses : t.buses = s.buses
  attached : t.attached = s.attached
  faults : t.faults = s.faults
  refused : t.refused = s.refused
  peerLow : t.peerLow = s.peerLow
  schedule : t.schedule = s.schedule

theorem State.Frame.refl (a : AgentId) (b : Bus) (s : State) : s.Frame a b s :=
  ⟨fun _ _ _ => ⟨rfl, rfl, rfl, rfl⟩, fun _ _ => rfl, rfl, rfl, rfl, rfl, rfl, rfl, rfl⟩

theorem State.Frame.trans {a : AgentId} {b : Bus} {s t u : State} (h : s.Frame a b t) (h' : t.Frame a b u) :
    s.Frame a b u where
  otherBus := fun b' l' hb => by
    obtain ⟨hd, ho, hi, hp⟩ := h.otherBus b' l' hb
    obtain ⟨hd', ho', hi', hp'⟩ := h'.otherBus b' l' hb
    exact ⟨hd'.trans hd, ho'.trans ho, hi'.trans hi, hp'.trans hp⟩
  otherAgents := fun a' ha => (h'.otherAgents a' ha).trans (h.otherAgents a' ha)
  win := h'.win.trans h.win
  buses := h'.buses.trans h.buses
  attached := h'.attached.trans h.attached
  faults := h'.faults.trans h.faults
  refused := h'.refused.trans h.refused
  peerLow := h'.peerLow.trans h.peerLow
  schedule := h'.schedule.trans h.schedule

theorem frame_postStep (a : AgentId) (b : Bus) (s : State) : s.Frame a b (postStep b s) := by
  obtain ⟨-, he⟩ | ⟨w, rest, -, he⟩ := postStep_cases b s <;> rw [he]
  · exact .refl a b s
  · refine ⟨fun b' l' hb => ⟨?_, ?_, performWith_inl_get_ne _ w _ l' hb, PerBus.get_set_ne _ _ hb⟩,
      fun _ _ => rfl, rfl, rfl, rfl, rfl, rfl, rfl, rfl⟩
    · exact (performWith_dir_get _ b w _ b' l').trans (if_neg fun h => hb h.1)
    · exact (performWith_out_get _ b w _ b' l').trans (if_neg fun h => hb h.1)

/-! ### The steps of a primitive by one caller -/

/-- The record of a caller, no `ATTACH`, at micro-step `k` of a primitive. -/
def inPrim (p : Prim) (b : Bus) (k : Nat) (r : Option Word) : AgentRec :=
  { AgentRec.atRest with seq := .busy p b k r }

/-- Agent `a` steps from `s` to `t`: its record becomes `rec`, the queue of `b` becomes `queue`, and `new` is observed;
no latch or line changes, and nothing else does. -/
structure State.CallerStep (a : AgentId) (b : Bus) (rec : AgentRec) (queue : List Word) (new : List Obs)
    (s t : State) : Prop where
  agent : t.agent a = rec
  queue : t.pend.get b = queue
  trace : t.trace = new ++ s.trace
  wires : s.SameWires t
  frame : s.Frame a b t

theorem State.SameWires.trans {s t u : State} (h : s.SameWires t) (h' : t.SameWires u) : s.SameWires u := by
  obtain ⟨hdir, hout, hinl, hpeer, hset⟩ := h
  obtain ⟨hdir', hout', hinl', hpeer', hset'⟩ := h'
  exact ⟨hdir'.trans hdir, hout'.trans hout, hinl'.trans hinl, hpeer'.trans hpeer, hset'.trans hset⟩

/-- Two steps one after the other: the later record and queue, and both observations. -/
theorem State.CallerStep.trans {a : AgentId} {b : Bus} {rec rec' : AgentRec} {queue queue' : List Word}
    {new new' : List Obs} {s t u : State} (h : s.CallerStep a b rec queue new t)
    (h' : t.CallerStep a b rec' queue' new' u) : s.CallerStep a b rec' queue' (new' ++ new) u :=
  ⟨h'.agent, h'.queue, by rw [h'.trace, h.trace, List.append_assoc], h.wires.trans h'.wires, h.frame.trans h'.frame⟩

section
variable {s : State} {a : AgentId} {b : Bus} {p : Prim} {k : Nat} {r : Option Word}

/-- A step that changes no latch, no line and no other queue, and sets its agent's record. -/
theorem callerStep_of_setAgent {rec : AgentRec} {queue : List Word} {new : List Obs} {t : State} (hinv : s.Inv)
    (ht : t = { s with
      actor := a, pend := s.pend.set b queue, trace := new ++ s.trace, draws := t.draws
      agents := insertAgent a rec s.agents }) : s.CallerStep a b rec queue new t := by
  rw [ht]
  exact ⟨lookup_insert_self rec hinv.agentList, PerBus.get_set_self _ b queue, rfl, ⟨rfl, rfl, rfl, rfl, rfl⟩,
    fun _ _ hb => ⟨rfl, rfl, rfl, PerBus.get_set_ne _ _ hb⟩, fun _ ha => lookup_insert_ne _ _ ha,
    rfl, rfl, rfl, rfl, rfl, rfl, rfl⟩


theorem callerStep_start {i : Instr} (hinv : s.Inv) (hr : s.agent a = .atRest) (hb : s.registered b = true)
    (hi : ∀ u, exec i u = startPrim p b u) :
    ∃ t, runEvent (.request a (.call i)) s = .next t ∧
      s.CallerStep a b (inPrim p b 0 none) (s.pend.get b) [] t := by
  refine ⟨_, (hi _).trans (startPrim_of_registered (s := { s with actor := a }) hr hb),
    callerStep_of_setAgent hinv ?_⟩
  rw [PerBus.set_get]
  rfl

theorem runEvent_micro_of_inPrim (h : s.agent a = inPrim p b k r) :
    runEvent (.micro a) s = primStep p b k r { s with actor := a } :=
  microStep_of_busy (s := { s with actor := a }) (congrArg AgentRec.seq h) (congrArg AgentRec.stopped h)

theorem setSeq_inPrim (h : s.agent a = inPrim p b k r) (q : SeqState) :
    { s.agent a with seq := q } = { AgentRec.atRest with seq := q } := by
  rw [h]
  rfl

theorem callerStep_write {w : Word} (hinv : s.Inv) (h : s.agent a = inPrim p b k r) (hm : s.win.status = .mapped)
    (hw : bitSet w Config.reservedMask = false) (ho : (microOps p)[k]? = some (.write w)) :
    ∃ t, runEvent (.micro a) s = .next t ∧
      s.CallerStep a b (inPrim p b (k + 1) r) (s.pend.get b ++ [w]) [.write a (Config.off b) w] t := by
  rw [runEvent_micro_of_inPrim h, primStep, ho]
  refine ⟨_, writeThen_off (s := { s with actor := a }) b _ hm hw, callerStep_of_setAgent hinv ?_⟩
  rw [inPrim, ← setSeq_inPrim h]
  rfl

theorem callerStep_read (hinv : s.Inv) (h : s.agent a = inPrim p b k r) (hm : s.win.status = .mapped)
    (hp : s.pend.get b = []) (ho : (microOps p)[k]? = some .read) :
    ∃ t, runEvent (.micro a) s = .next t ∧
      s.CallerStep a b (inPrim p b (k + 1) (some (readValue b s))) []
        [.read a (Config.off b) (readValue b s)] t := by
  rw [runEvent_micro_of_inPrim h, primStep, ho]
  refine ⟨_, (readThen_off (s := { s with actor := a }) b _ _ hm).trans (if_pos hp), callerStep_of_setAgent hinv ?_⟩
  rw [inPrim, ← setSeq_inPrim h, ← hp, PerBus.set_get]
  rfl

theorem runEvent_micro_of_accessed (h : s.agent a = inPrim p b (microOps p).length r) :
    runEvent (.micro a) s = returnPrim p r { s with actor := a } := by
  rw [runEvent_micro_of_inPrim h, primStep, List.getElem?_length, if_pos rfl]

/-- The return of a `SET_*`: the caller is at rest (R189, R190). -/
theorem callerStep_return (hinv : s.Inv) (h : s.agent a = inPrim p b (microOps p).length r)
    (hl : resultLine p = none) :
    ∃ t, runEvent (.micro a) s = .next t ∧ s.CallerStep a b .atRest (s.pend.get b) [] t := by
  have htask : ({ s with actor := a } : State).me.task = .none := congrArg AgentRec.task h
  refine ⟨({ s with actor := a } : State).setSeq .idle, ?_, callerStep_of_setAgent hinv ?_⟩
  · rw [runEvent_micro_of_accessed h]
    simp only [returnPrim, htask, hl]
  · rw [PerBus.set_get, ← show _ = AgentRec.atRest from setSeq_inPrim h .idle]
    rfl

/-- The return of a `GET_*`: the caller is at rest and has the input bit of the word read (R191, R192). -/
theorem callerStep_result {l : Line} {w : Word} (hinv : s.Inv)
    (h : s.agent a = inPrim p b (microOps p).length (some w)) (hl : resultLine p = some l) :
    ∃ t, runEvent (.micro a) s = .next t ∧
      s.CallerStep a b .atRest (s.pend.get b) [.returned a (.level (inputBit l w))] t := by
  have htask : ({ s with actor := a } : State).me.task = .none := congrArg AgentRec.task h
  refine ⟨deliver (.level (inputBit l w)) (({ s with actor := a } : State).setSeq .idle), ?_,
    callerStep_of_setAgent hinv ?_⟩
  · rw [runEvent_micro_of_accessed h]
    simp only [returnPrim, htask, hl]
  · rw [PerBus.set_get, ← show _ = AgentRec.atRest from setSeq_inPrim h .idle]
    rfl

end

/-! ### The posting path drains the queue -/

theorem runAll_cons {e : Event} {es : List Event} {s t : State} (h : runEvent e s = .next t) :
    runAll (e :: es) s = runAll es t := by
  rw [runAll, h]

theorem runAll_replicate_post (b : Bus) (n : Nat) (es : List Event) (s : State) :
    runAll (List.replicate n (.post b) ++ es) s = runAll es ((postStep b)^[n] s) := by
  induction n generalizing s with
  | zero => rfl
  | succ n ih => exact (runAll_cons (e := .post b) rfl).trans (ih _)

/-- The state after the posting path has performed all that is pending at the offset of `b`. -/
def State.drained (b : Bus) (s : State) : State := (postStep b)^[(s.pend.get b).length] s

section
variable {b : Bus} {s : State}

theorem postStep_pend_get (b : Bus) (s : State) : (postStep b s).pend.get b = (s.pend.get b).tail := by
  rw [postStep_pend, PerBus.get_set_self]

theorem iterate_postStep_pend (n : Nat) (s : State) : ((postStep b)^[n] s).pend.get b = (s.pend.get b).drop n := by
  induction n generalizing s with
  | zero => rfl
  | succ n ih => rw [Function.iterate_succ_apply, ih, postStep_pend_get, List.drop_tail]

@[simp] theorem drained_pend (b : Bus) (s : State) : (s.drained b).pend.get b = [] := by
  rw [State.drained, iterate_postStep_pend, List.drop_length]

theorem runAll_drain (b : Bus) (es : List Event) {s : State} {n : Nat} (hn : (s.pend.get b).length = n) :
    runAll (List.replicate n (.post b) ++ es) s = runAll es (s.drained b) := by
  rw [runAll_replicate_post, ← hn, State.drained]

/-- What the performance of every pending word keeps, draining keeps. -/
theorem drained_keeps {Q : Word → Prop} {P : State → Prop}
    (hP : ∀ u, (∀ w ∈ u.pend.get b, Q w) → P u → P (postStep b u)) (hq : ∀ w ∈ s.pend.get b, Q w) (h : P s) :
    P (s.drained b) := by
  rw [State.drained]
  induction (s.pend.get b).length generalizing s with
  | zero => exact h
  | succ n ih =>
    refine ih (s := postStep b s) (fun w hw => hq w ?_) (hP s hq h)
    rw [postStep_pend_get] at hw
    exact List.mem_of_mem_tail hw

/-- Draining keeps what every performance keeps. -/
theorem drained_keeps_of_postStep {P : State → Prop} (hP : ∀ u, P u → P (postStep b u)) (h : P s) :
    P (s.drained b) :=
  drained_keeps (Q := fun _ => True) (fun u _ => hP u) (fun _ _ => trivial) h

theorem inv_drained (h : s.Inv) (b : Bus) : (s.drained b).Inv :=
  drained_keeps_of_postStep (fun _ hu => hu.postStep b) h

theorem frame_drained (a : AgentId) (b : Bus) (s : State) : s.Frame a b (s.drained b) :=
  drained_keeps_of_postStep (fun u hu => hu.trans (frame_postStep a b u)) (.refl a b s)

theorem drained_agent (a : AgentId) (b : Bus) (s : State) : (s.drained b).agent a = s.agent a :=
  drained_keeps_of_postStep (P := fun u => u.agent a = s.agent a)
    (fun u hu => by rw [State.agent, postStep_agents]; exact hu) rfl

/-- The first words of a queue are performed before the others. -/
theorem drained_of_append {ws rest : List Word} (hq : s.pend.get b = ws ++ rest) :
    ∃ u : State, u.pend.get b = rest ∧ s.drained b = u.drained b := by
  have hrest : ((postStep b)^[ws.length] s).pend.get b = rest := by
    rw [iterate_postStep_pend, hq, List.drop_left]
  refine ⟨_, hrest, ?_⟩
  rw [State.drained, State.drained, hrest, hq, List.length_append, Nat.add_comm, Function.iterate_add_apply]

/-- Draining performs the queue in order (20_memory.md R79). -/
theorem drained_trace (b : Bus) (s : State) :
    (s.drained b).trace = ((s.pend.get b).map (Obs.perform (Config.off b))).reverse ++ s.trace := by
  rw [State.drained]
  generalize hq : s.pend.get b = q
  induction q generalizing s with
  | nil => rfl
  | cons w rest ih =>
    have hrest : (postStep b s).pend.get b = rest := by rw [postStep_pend_get, hq, List.tail_cons]
    rw [List.length_cons, Function.iterate_succ_apply, ih _ hrest, postStep_of_cons hq, List.map_cons,
      List.reverse_cons, List.append_assoc]
    rfl

end

end Sys2Proof.Machine
end

section
/-! SUPPORT. Whole primitives by one caller (41_line_driver.md R189 to R192): what draining the queue leaves on a
line, and the run from the request to the return. With it the claims about a whole `SET_*` and a whole `GET_*`. -/

namespace Sys2Proof.Machine

theorem microOps_setPrim (l : Line) (v : Bool) : microOps (setPrim l v) = [.write (setWord l v), .read] := by
  cases l <;> rfl

theorem microOps_getPrim (l : Line) : microOps (getPrim l) = [.write (relWord l), .write latchWord, .read] := by
  cases l <;> rfl

theorem resultLine_setPrim (l : Line) (v : Bool) : resultLine (setPrim l v) = none := by cases l <;> rfl

theorem resultLine_getPrim (l : Line) : resultLine (getPrim l) = some l := by cases l <;> rfl

/-! ### What draining leaves on a line -/

section
variable {b : Bus} {l : Line} {s : State}

/-- A rule for a performance at the head of a queue is one for a posting step. -/
theorem postStep_of_performs {Q : Word → Prop} {P : State → Prop}
    (hP : ∀ w rest, Q w → P (performWrite b w
      { s with pend := s.pend.set b rest, trace := .perform (Config.off b) w :: s.trace }))
    (hq : ∀ w ∈ s.pend.get b, Q w) (h : P s) : P (postStep b s) := by
  obtain ⟨-, he⟩ | ⟨w, rest, hp, he⟩ := postStep_cases b s <;> rw [he]
  · exact h
  · exact hP w rest (hq w (hp ▸ List.mem_cons_self))

theorem drained_dir_of_disabled (h : ∀ w ∈ s.pend.get b, (lineFields w l).dirEnable = false) :
    (s.drained b).dir.get b l = s.dir.get b l :=
  drained_keeps (fun _ hq hu => postStep_of_performs (P := fun u => u.dir.get b l = s.dir.get b l)
    (fun _ _ hw => (performWrite_dir_of_disabled _ hw).trans hu) hq hu) h rfl

theorem drained_out_of_disabled (h : ∀ w ∈ s.pend.get b, (lineFields w l).valEnable = false) :
    (s.drained b).out.get b l = s.out.get b l :=
  drained_keeps (fun _ hq hu => postStep_of_performs (P := fun u => u.out.get b l = s.out.get b l)
    (fun _ _ hw => (performWrite_out_of_disabled _ hw).trans hu) hq hu) h rfl

/-- A queue that does not touch a line leaves both its latches. -/
theorem drained_latches (h : ∀ w ∈ s.pend.get b, touches l w = false) :
    (s.drained b).dir.get b l = s.dir.get b l ∧ (s.drained b).out.get b l = s.out.get b l :=
  ⟨drained_dir_of_disabled fun w hw => (touches_eq_false_iff.1 (h w hw)).1,
    drained_out_of_disabled fun w hw => (touches_eq_false_iff.1 (h w hw)).2⟩

theorem State.High.postStep (h : s.High b l) (hq : ∀ w ∈ s.pend.get b, touches l w = true → w = relWord l) :
    (postStep b s).High b l :=
  postStep_of_performs (fun _ _ hw => State.High.performWrite ⟨h.noPeer, h.settled, h.drive⟩ hw) hq h

theorem high_drained (h : s.High b l) (hq : ∀ w ∈ s.pend.get b, touches l w = true → w = relWord l) :
    (s.drained b).High b l :=
  drained_keeps (fun _ hq hu => State.High.postStep hu hq) hq h

/-- A set word at the end of the queue drives its line. -/
theorem drained_of_setWord {ws : List Word} {v : Bool} (hq : s.pend.get b = ws ++ [setWord l v]) :
    (s.drained b).dir.get b l = some .output ∧ (s.drained b).out.get b l = some v := by
  obtain ⟨u, hu, he⟩ := drained_of_append hq
  have hlast : u.drained b = postStep b u := by rw [State.drained, hu]; rfl
  have hf := lineFields_setWord l v
  rw [he, hlast, postStep_of_cons hu]
  constructor
  · rw [performWrite_dir_of_enabled _ (congrArg LineCtl.dirEnable hf), hf]
    rfl
  · rw [performWrite_out_of_enabled _ (congrArg LineCtl.valEnable hf), hf]

/-- A release word and a latch word at the end of the queue release their line and then sample it. -/
theorem drained_of_relWord_latchWord {ws : List Word} (hq : s.pend.get b = ws ++ [relWord l, latchWord]) :
    (s.drained b).dir.get b l = some .input ∧
    ∃ x, (s.drained b).inl.get b l = some (sampleOf ((s.drained b).level b l) x) := by
  obtain ⟨u, hu, he⟩ := drained_of_append hq
  have hlast : u.drained b = postStep b (postStep b u) := by rw [State.drained, hu]; rfl
  have hu' : (postStep b u).pend.get b = [latchWord] := by rw [postStep_pend_get, hu]; rfl
  have hdir : (postStep b u).dir.get b l = some .input := by
    have hf := lineFields_relWord l
    rw [postStep_of_cons hu, performWrite_dir_of_enabled _ (congrArg LineCtl.dirEnable hf), hf]
    rfl
  rw [he, hlast, postStep_of_cons hu']
  have hdir' := (performWrite_dir_of_disabled (b := b) (l := l) (w := latchWord)
    { postStep b u with
      pend := (postStep b u).pend.set b [], trace := .perform (Config.off b) latchWord :: (postStep b u).trace }
    (congrArg LineCtl.dirEnable (lineFields_latchWord l))).trans hdir
  exact ⟨hdir', _, performWrite_inl_of_latchWord (by rw [State.drive, hdir']; rfl)⟩

end

/-! ### A whole `SET_*` and a whole `GET_*` -/

theorem State.High.of_sameWires {b : Bus} {l : Line} {s t : State} (h : s.High b l) (hw : s.SameWires t) :
    t.High b l := by
  obtain ⟨hdir, hout, -, hpeer, hset⟩ := hw
  exact ⟨by rw [hpeer]; exact h.noPeer, by rw [hset]; exact h.settled,
    by rw [State.drive, hdir, hout]; exact h.drive⟩

/-- A line that no pending word touches is, after the queue is drained, as it was before the queue was filled. -/
theorem latches_of_drain {b : Bus} {l : Line} {s s₁ s₂ : State} (h₁ : s.SameWires s₁)
    (hq : ∀ w ∈ s₁.pend.get b, touches l w = false) (h₂ : (s₁.drained b).SameWires s₂) :
    s₂.dir.get b l = s.dir.get b l ∧ s₂.out.get b l = s.out.get b l := by
  obtain ⟨hdir₁, hout₁, -⟩ := h₁
  obtain ⟨hdir₂, hout₂, -⟩ := h₂
  rw [hdir₂, hout₂, ← hdir₁, ← hout₁]
  exact drained_latches hq

/-- Settles O44: the write joins the queue (`c₂`), the posting path drains it with the set word last, and the read and
the return follow (`c₄`). -/
theorem setPrimitiveDrivesItsLine : Obligations.SetPrimitiveDrivesItsLine := by
  intro s a b l v hinv hr hm hb
  obtain ⟨s₁, h₁, c₁⟩ := callerStep_start hinv hr (registered_iff.2 hb) (exec_setInstr l v b)
  have hinv₁ := runEvent_inv hinv h₁
  obtain ⟨s₂, h₂, c₂⟩ := callerStep_write hinv₁ c₁.agent (c₁.frame.win ▸ hm) (setWord_legal l v)
    (by rw [microOps_setPrim]; rfl)
  replace c₂ := c₁.trans c₂
  have hq : s₂.pend.get b = s.pend.get b ++ [setWord l v] := by rw [c₂.queue, c₁.queue]
  have f := c₂.frame.trans (frame_drained a b s₂)
  have hinv₂ := inv_drained (runEvent_inv hinv₁ h₂) b
  obtain ⟨s₃, h₃, c₃⟩ := callerStep_read hinv₂ ((drained_agent a b s₂).trans c₂.agent) (f.win ▸ hm)
    (drained_pend b s₂) (by rw [microOps_setPrim]; rfl)
  obtain ⟨s₄, h₄, c₄⟩ := callerStep_return (runEvent_inv hinv₂ h₃)
    (by rw [c₃.agent, microOps_setPrim]; rfl) (resultLine_setPrim l v)
  replace c₄ := c₃.trans c₄
  replace f := f.trans c₄.frame
  obtain ⟨hdir₂, hout₂⟩ := drained_of_setWord hq
  obtain ⟨hdir₄, hout₄, -⟩ := c₄.wires
  have hdir : s₄.dir.get b l = some .output := by rw [hdir₄]; exact hdir₂
  have hout : s₄.out.get b l = some v := by rw [hout₄]; exact hout₂
  refine ⟨s₄, readValue b (s₂.drained b), ?run, c₄.agent, c₄.queue.trans c₃.queue, hdir, hout, ?drive, ?trace,
    ?otherLine, f.otherBus, f.otherAgents, f.win, f.buses, f.attached, f.faults, f.refused, f.peerLow, f.schedule⟩
  case run =>
    rw [runAll_cons h₁, runAll_cons h₂, runAll_drain b _ (by rw [hq, List.length_append]; rfl), runAll_cons h₃,
      runAll_cons h₄, runAll]
  case drive =>
    rw [State.drive, hdir, hout]
    cases v <;> rfl
  case trace =>
    rw [c₄.trace, drained_trace, hq, c₂.trace]
    rfl
  case otherLine =>
    intro l' hl hun
    refine latches_of_drain c₂.wires ?_ c₄.wires
    rw [hq]
    exact List.forall_mem_append.2 ⟨hun, List.forall_mem_singleton.2 (touches_setWord_ne v hl)⟩

theorem forall_mem_append_getWords {P : Word → Prop} {ws : List Word} {l : Line} (hws : ∀ w ∈ ws, P w)
    (hrel : P (relWord l)) (hlatch : P latchWord) : ∀ w ∈ ws ++ [relWord l, latchWord], P w :=
  List.forall_mem_append.2 ⟨hws, List.forall_mem_cons.2 ⟨hrel, List.forall_mem_singleton.2 hlatch⟩⟩

/-- Settles O45: the release and the latch word join the queue (`c₃`), the posting path drains it with these last, and
the read and the return follow (`c₅`). A line at level 1 stays there, so the latch word samples it high. -/
theorem getPrimitiveSamplesItsLine : Obligations.GetPrimitiveSamplesItsLine := by
  intro s a b l hinv hr hm hb hun
  obtain ⟨s₁, h₁, c₁⟩ := callerStep_start hinv hr (registered_iff.2 hb) (exec_getInstr l b)
  have hinv₁ := runEvent_inv hinv h₁
  obtain ⟨s₂, h₂, c₂⟩ := callerStep_write hinv₁ c₁.agent (c₁.frame.win ▸ hm) (relWord_legal l)
    (by rw [microOps_getPrim]; rfl)
  have hinv₂ := runEvent_inv hinv₁ h₂
  replace c₂ := c₁.trans c₂
  obtain ⟨s₃, h₃, c₃⟩ := callerStep_write hinv₂ c₂.agent (c₂.frame.win ▸ hm) latchWord_legal
    (by rw [microOps_getPrim]; rfl)
  replace c₃ := c₂.trans c₃
  have hq : s₃.pend.get b = s.pend.get b ++ [relWord l, latchWord] := by
    rw [c₃.queue, c₂.queue, c₁.queue, List.append_assoc, List.singleton_append]
  have f := c₃.frame.trans (frame_drained a b s₃)
  have hpeer : (s₃.drained b).peerLow = s.peerLow := f.peerLow
  have hinv₃ := inv_drained (runEvent_inv hinv₂ h₃) b
  obtain ⟨s₄, h₄, c₄⟩ := callerStep_read hinv₃ ((drained_agent a b s₃).trans c₃.agent) (f.win ▸ hm)
    (drained_pend b s₃) (by rw [microOps_getPrim]; rfl)
  obtain ⟨s₅, h₅, c₅⟩ := callerStep_result (runEvent_inv hinv₃ h₄)
    (by rw [c₄.agent, microOps_getPrim]; rfl) (resultLine_getPrim l)
  replace c₅ := c₄.trans c₅
  replace f := f.trans c₅.frame
  obtain ⟨hdir₃, x, hinl₃⟩ := drained_of_relWord_latchWord hq
  obtain ⟨hdir₅, hout₅, hinl₅, -⟩ := c₅.wires
  refine ⟨s₅, readValue b (s₃.drained b), sampleOf ((s₃.drained b).level b l) x, ?run, ?pulled, ?high,
    c₅.agent, c₅.queue.trans c₄.queue, by rw [hinl₅]; exact hinl₃, by rw [hdir₅]; exact hdir₃, ?out, ?trace,
    ?otherLine, f.otherBus, f.otherAgents, f.win, f.buses, f.attached, f.faults, f.refused, f.peerLow, f.schedule⟩
  case run =>
    rw [runAll_cons h₁, runAll_cons h₂, runAll_cons h₃, runAll_drain b _ (by rw [hq, List.length_append]; rfl),
      runAll_cons h₄, runAll_cons h₅, runAll]
  case pulled =>
    intro hp
    have hzero : (s₃.drained b).level b l = .zero :=
      levelOf_eq_zero.2 (.inr ⟨by rw [State.drive, hdir₃]; rfl, by rw [hpeer]; exact hp⟩)
    rw [hzero, sampleOf]
  case high =>
    intro hone
    have hhigh : (s₃.drained b).High b l := high_drained ((high_of_level hinv hone).of_sameWires c₃.wires) (by
      rw [hq]
      exact forall_mem_append_getWords (fun w hw ht => absurd ht (by simp [hun w hw])) (fun _ => rfl)
        fun ht => absurd ht (by simp))
    rw [hhigh.level, sampleOf]
  case out =>
    obtain ⟨-, hout₃, -⟩ := c₃.wires
    rw [hout₅, ← hout₃]
    refine drained_out_of_disabled ?_
    rw [hq]
    exact forall_mem_append_getWords (fun w hw => (touches_eq_false_iff.1 (hun w hw)).2)
      (congrArg LineCtl.valEnable (lineFields_relWord l)) (congrArg LineCtl.valEnable (lineFields_latchWord l))
  case trace =>
    rw [c₅.trace, drained_trace, hq, c₃.trace, inputBit_readValue hinl₃]
    rfl
  case otherLine =>
    intro l' hl hun'
    refine latches_of_drain c₃.wires ?_ c₅.wires
    rw [hq]
    exact forall_mem_append_getWords hun' (touches_relWord_ne hl) (touches_latchWord l')

end Sys2Proof.Machine
end

section
/-! SUPPORT. A primitive under every interleaving (41_line_driver.md R196): what one event can do to a line and its
queue, and the rules by which a fact about each phase of a primitive holds along every run. With them the two halves
of the round trip with release. -/

namespace Sys2Proof.Machine

/-! ### What an event does to a line -/

/-- Nothing happens to the queue of `b` or to the drive of the line; a line at level 1 stays so, and a set input latch
of such a line stays set. -/
structure State.Drifts (b : Bus) (l : Line) (s t : State) : Prop where
  queue : t.pend.get b = s.pend.get b
  drive : t.drive b l = s.drive b l
  noPeer : s.peerLow.get b l = false → t.peerLow.get b l = false
  high : s.High b l → t.High b l
  inl : s.High b l → s.inl.get b l = some true → t.inl.get b l = some true

/-- A word joins the queue of `b`, and no latch or line changes. -/
def State.Queues (b : Bus) (w : Word) (s t : State) : Prop :=
  t.pend.get b = s.pend.get b ++ [w] ∧ s.SameWires t

section
variable {b : Bus} {l : Line} {s t : State}

theorem drive_of_sameWires (h : s.SameWires t) : t.drive b l = s.drive b l := by
  obtain ⟨hdir, hout, -⟩ := h
  rw [State.drive, hdir, hout]
  rfl

theorem drifts_of_sameWires (hq : t.pend.get b = s.pend.get b) (h : s.SameWires t) : s.Drifts b l t where
  queue := hq
  drive := drive_of_sameWires h
  noPeer := fun hp => by
    obtain ⟨-, -, -, hpeer, -⟩ := h
    rw [hpeer]
    exact hp
  high := fun hh => hh.of_sameWires h
  inl := fun _ hi => by
    obtain ⟨-, -, hinl, -⟩ := h
    rw [hinl]
    exact hi

theorem drifts_peerStep {b' : Bus} {l' : Line} {low : Bool} (hne : Event.peer b' l' low ≠ .peer b l true) :
    s.Drifts b l (peerStep b' l' low s) := by
  have hpeer : s.peerLow.get b l = false → (peerStep b' l' low s).peerLow.get b l = false := fun hp => by
    by_contra h
    have hch : (peerStep b' l' low s).peerLow.get b l ≠ s.peerLow.get b l := fun he => h (he.trans hp)
    obtain ⟨⟨rfl, rfl⟩, hlow⟩ := peerStep_peerLow_of_ne hch
    cases low with
    | true => exact hne rfl
    | false => exact h hlow
  exact ⟨rfl, rfl, hpeer, fun hh => hh.of_settledOf hh.drive (hpeer hh.noPeer) (lineUpdate_settled_get _ b l),
    fun _ hi => hi⟩

theorem drifts_settleStep (b' : Bus) (l' : Line) : s.Drifts b l (settleStep b' l' s) := by
  refine ⟨rfl, rfl, id, fun hh => ⟨hh.noPeer, ?_, hh.drive⟩, fun _ hi => hi⟩
  by_contra h
  exact h (settleStep_settled_of_ne fun he => h (he.trans hh.settled)).2

theorem drifts_sampleStep (b' : Bus) (l' : Line) : s.Drifts b l (sampleStep b' l' s) := by
  refine ⟨rfl, rfl, id, fun hh => ⟨hh.noPeer, hh.settled, hh.drive⟩, fun hh hi => ?_⟩
  by_contra h
  obtain ⟨⟨rfl, rfl⟩, hsp⟩ := sampleStep_inl_of_ne fun he => h (he.trans hi)
  refine h ((sampleStepWith_inl_get_self _ b l s).trans ((if_pos hsp).trans ?_))
  rw [hh.level, sampleOf]

theorem drifts_postStep_ne {b' : Bus} (h : b ≠ b') : s.Drifts b l (postStep b' s) := by
  obtain ⟨hdir, hout, hinl, hpend⟩ := (frame_postStep s.actor b' s).otherBus b l h
  have hpeer := (frame_postStep s.actor b' s).peerLow
  have hdrive : (postStep b' s).drive b l = s.drive b l := by rw [State.drive, hdir, hout]; rfl
  refine ⟨hpend, hdrive, fun hp => by rw [hpeer]; exact hp, fun hh => ?_, fun _ hi => hinl.trans hi⟩
  obtain ⟨-, he⟩ | ⟨w, rest, -, he⟩ := postStep_cases b' s <;> rw [he]
  · exact hh
  · refine hh.of_settledOf ?_ hh.noPeer (performWith_settled_get _ b' w _ b l)
    rw [← he, hdrive]
    exact hh.drive

/-- What a move does to the queues, and whose word it adds. -/
theorem Move.pend (h : Move s t) :
    t.pend = s.pend ∨
    ∃ b w, t.trace = .write s.actor (Config.off b) w :: s.trace ∧ t.pend = s.pend.set b (s.pend.get b ++ [w]) := by
  cases h with
  | write b w => exact .inr ⟨b, w, rfl, rfl⟩
  | primWrite p b k r w => exact .inr ⟨b, w, rfl, rfl⟩
  | _ => exact .inl rfl

theorem Move.line (h : Move s t) (b : Bus) (l : Line) :
    s.Drifts b l t ∨ ∃ w, s.Queues b w t ∧ t.trace = .write s.actor (Config.off b) w :: s.trace := by
  obtain hp | ⟨b', w, ht, hp⟩ := h.pend
  · exact .inl (drifts_of_sameWires (by rw [hp]) h.latches)
  by_cases hb : b = b'
  · subst hb
    exact .inr ⟨w, ⟨by rw [hp, PerBus.get_set_self], h.latches⟩, ht⟩
  · exact .inl (drifts_of_sameWires (by rw [hp, PerBus.get_set_ne _ _ hb]) h.latches)

/-- An event but a peer's pull of the line is an agent's move, a performance at `b`, or leaves the agents and the
queue of `b`. -/
theorem runEvent_line {e : Event} (h : runEvent e s = .next t) (hne : e ≠ .peer b l true) :
    (∃ a, Move { s with actor := a } t) ∨ t = postStep b s ∨ (s.Drifts b l t ∧ t.agents = s.agents) := by
  obtain ⟨a, -, hm⟩ | ⟨b', rfl, rfl⟩ | ⟨b', l', low, rfl, rfl⟩ | ⟨b', l', rfl, rfl⟩ | ⟨b', l', rfl, rfl⟩ :=
    runEvent_cases h
  · exact .inl ⟨a, hm⟩
  · by_cases hb : b = b'
    · exact .inr (.inl (by rw [hb]))
    · exact .inr (.inr ⟨drifts_postStep_ne hb, postStep_agents b' s⟩)
  · exact .inr (.inr ⟨drifts_peerStep hne, rfl⟩)
  · exact .inr (.inr ⟨drifts_settleStep b' l', rfl⟩)
  · exact .inr (.inr ⟨drifts_sampleStep b' l', rfl⟩)

/-! ### What a move does to its agent's sequencer -/

/-- A move leaves its agent where it was, outside primitives or at the start of one, or takes it over a write or a
read of its primitive. -/
theorem Move.seq (h : Move s t) (hwf : agentsWf s.agents = true) :
    ((t.agent s.actor).seq = s.me.seq ∧ t.pend = s.pend) ∨ (t.agent s.actor).seq = .idle ∨
    (∃ p b, (t.agent s.actor).seq = .busy p b 0 none) ∨
    (∃ p b k r w, s.me.seq = .busy p b k r ∧ (microOps p)[k]? = some (.write w) ∧
      t.pend = s.pend.set b (s.pend.get b ++ [w]) ∧ (t.agent s.actor).seq = .busy p b (k + 1) r) ∨
    (∃ p b k r, s.me.seq = .busy p b k r ∧ (microOps p)[k]? = some .read ∧ s.pend.get b = [] ∧ t.pend = s.pend ∧
      (t.agent s.actor).seq = .busy p b (k + 1) (some (readValue b s))) := by
  have hset : ∀ {rec : AgentRec}, t.agents = (s.setMe rec).agents → (t.agent s.actor).seq = rec.seq :=
    fun ht => congrArg AgentRec.seq (agent_of_agents_eq hwf ht)
  cases h with
  | write b w hr => exact .inr (.inl (congrArg AgentRec.seq hr))
  | start p b => exact .inr (.inr (.inl ⟨p, b, hset rfl⟩))
  | attachStart st p b => exact .inr (.inr (.inl ⟨p, b, hset rfl⟩))
  | primWrite p b k r w hq _ ho => exact .inr (.inr (.inr (.inl ⟨p, b, k, r, w, hq, ho, rfl, hset rfl⟩)))
  | primRead p b k r hq _ ho _ hp => exact .inr (.inr (.inr (.inr ⟨p, b, k, r, hq, ho, hp, rfl, hset rfl⟩)))
  | primReturn | primResult | attachReturn => exact .inr (.inl (hset rfl))
  | stay | read | flush | openOk | mapError | close => exact .inl ⟨rfl, rfl⟩
  | _ => exact .inl ⟨(hset rfl).trans rfl, rfl⟩

end

/-! ### Facts about the phases of a primitive -/

/-- The fact `Φ k r` holds wherever the agent stands at micro-step `k` of the primitive, with `r` read. -/
def State.AtPhase (a : AgentId) (p : Prim) (b : Bus) (Φ : Nat → Option Word → State → Prop) (s : State) : Prop :=
  ∀ k r, (s.agent a).seq = .busy p b k r → Φ k r s

/-- The rules by which a guard `G` and the facts `Φ` of a primitive of agent `a` on bus `b` hold along a run whose words
at `off(b)` are `ok` for their writers and in which no peer pulls the line. -/
structure PhaseRules (a : AgentId) (p : Prim) (b : Bus) (l : Line) (ok : AgentId → Word → Prop) (G : State → Prop)
    (Φ : Nat → Option Word → State → Prop) : Prop where
  start : ∀ s, G s → Φ 0 none s
  drift : ∀ s t, s.Drifts b l t → G s → G t ∧ ∀ k r, Φ k r s → Φ k r t
  post : ∀ s, G s → G (postStep b s) ∧ ∀ k r, Φ k r s → Φ k r (postStep b s)
  queue : ∀ s t a' w, ok a' w → s.Queues b w t → G s → G t ∧ (a' ≠ a → ∀ k r, Φ k r s → Φ k r t)
  write : ∀ s t k r w, (microOps p)[k]? = some (.write w) → s.Queues b w t → Φ k r s → Φ (k + 1) r t
  read : ∀ s k r, (microOps p)[k]? = some .read → s.pend.get b = [] → Φ k r s → Φ (k + 1) (some (readValue b s)) s

namespace PhaseRules

variable {a : AgentId} {p : Prim} {b : Bus} {l : Line} {ok : AgentId → Word → Prop} {G : State → Prop}
  {Φ : Nat → Option Word → State → Prop} (R : PhaseRules a p b l ok G Φ) {s t : State}
include R

theorem drift_of_seq (hd : s.Drifts b l t) (hseq : (t.agent a).seq = (s.agent a).seq) (hG : G s)
    (hΦ : s.AtPhase a p b Φ) : G t ∧ t.AtPhase a p b Φ := by
  obtain ⟨hGt, hΦt⟩ := R.drift s t hd hG
  exact ⟨hGt, fun k r hq => hΦt k r (hΦ k r (hseq.symm.trans hq))⟩

theorem move_self (h : Move s t) (hwf : agentsWf s.agents = true) (ha : s.actor = a) (hG : G s) (hGt : G t)
    (hΦ : s.AtPhase a p b Φ) : t.AtPhase a p b Φ := by
  subst ha
  intro k r hq
  have hdrift : t.pend = s.pend → ∀ k r, Φ k r s → Φ k r t := fun hp =>
    (R.drift s t (drifts_of_sameWires (by rw [hp]) h.latches) hG).2
  obtain ⟨hseq, hp⟩ | hseq | ⟨p', b', hseq⟩ | ⟨p', b', k', r', w, hs, ho, hp, hseq⟩ |
    ⟨p', b', k', r', hs, ho, hempty, hp, hseq⟩ := h.seq hwf <;> rw [hseq] at hq
  · exact hdrift hp k r (hΦ k r hq)
  · cases hq
  · cases hq
    exact R.start t hGt
  · cases hq
    exact R.write s t k' r w ho ⟨by rw [hp, PerBus.get_set_self], h.latches⟩ (hΦ k' r hs)
  · cases hq
    exact hdrift hp _ _ (R.read s k' r' ho hempty (hΦ k' r' hs))

theorem move (h : Move s t) (hwf : agentsWf s.agents = true)
    (hok : ∀ w, t.trace = .write s.actor (Config.off b) w :: s.trace → ok s.actor w) (hG : G s)
    (hΦ : s.AtPhase a p b Φ) : G t ∧ t.AtPhase a p b Φ := by
  have hline : G t ∧ (s.actor ≠ a → ∀ k r, Φ k r s → Φ k r t) := by
    obtain hd | ⟨w, hw, ht⟩ := h.line b l
    · exact (R.drift s t hd hG).imp_right fun hΦt _ => hΦt
    · exact R.queue s t s.actor w (hok w ht) hw hG
  refine ⟨hline.1, ?_⟩
  by_cases ha : s.actor = a
  · exact R.move_self h hwf ha hG hline.1 hΦ
  · intro k r hq
    rw [h.agent_ne (Ne.symm ha)] at hq
    exact hline.2 ha k r (hΦ k r hq)

theorem event {e : Event} (hinv : s.Inv) (h : runEvent e s = .next t) (hne : e ≠ .peer b l true)
    (hok : ∀ a' w, t.trace = .write a' (Config.off b) w :: s.trace → ok a' w) (hG : G s)
    (hΦ : s.AtPhase a p b Φ) : G t ∧ t.AtPhase a p b Φ := by
  obtain ⟨a', hm⟩ | rfl | ⟨hd, hag⟩ := runEvent_line h hne
  · have hactor : s.Drifts b l { s with actor := a' } := drifts_of_sameWires rfl ⟨rfl, rfl, rfl, rfl, rfl⟩
    obtain ⟨hG', hΦ'⟩ := R.drift_of_seq hactor rfl hG hΦ
    exact R.move hm hinv.agentList (hok a') hG' hΦ'
  · obtain ⟨hGt, hΦt⟩ := R.post s hG
    refine ⟨hGt, fun k r hq => hΦt k r (hΦ k r ?_)⟩
    rw [State.agent, postStep_agents] at hq
    exact hq
  · exact R.drift_of_seq hd (by rw [State.agent, hag]; rfl) hG hΦ

end PhaseRules

/-! ### Runs -/

theorem runAll_cons_next {e : Event} {es : List Event} {s t : State} (h : runAll (e :: es) s = .next t) :
    ∃ u, runEvent e s = .next u ∧ runAll es u = .next t := by
  rw [runAll] at h
  split at h
  · next u hu => exact ⟨u, hu, h⟩
  · cases h
  · cases h

theorem runEvent_trace {e : Event} {s t : State} (h : runEvent e s = .next t) : ∃ new, t.trace = new ++ s.trace := by
  obtain ⟨-, new, ht, -⟩ | ⟨_, _, _, ht, -⟩ | ⟨_, _, _, -, ht, -⟩ := runEvent_queues h
  · exact ⟨new, ht⟩
  · exact ⟨[_], ht⟩
  · exact ⟨[_], ht⟩

theorem runAll_trace {es : List Event} {s t : State} (h : runAll es s = .next t) : ∃ new, t.trace = new ++ s.trace := by
  induction es generalizing s with
  | nil =>
    cases h
    exact ⟨[], rfl⟩
  | cons e es ih =>
    obtain ⟨u, hu, h⟩ := runAll_cons_next h
    obtain ⟨new₁, h₁⟩ := runEvent_trace hu
    obtain ⟨new₂, h₂⟩ := ih h
    exact ⟨new₂ ++ new₁, by rw [h₂, h₁, List.append_assoc]⟩

/-- The rules carry the guard and the facts along every run. -/
theorem PhaseRules.run {a : AgentId} {p : Prim} {b : Bus} {l : Line} {ok : AgentId → Word → Prop}
    {G : State → Prop} {Φ : Nat → Option Word → State → Prop} (R : PhaseRules a p b l ok G Φ) {es : List Event}
    {s t : State} {new : List Obs} (hinv : s.Inv) (hrun : runAll es s = .next t)
    (hne : ∀ e ∈ es, e ≠ .peer b l true) (htrace : t.trace = new ++ s.trace)
    (hok : ∀ a' w, .write a' (Config.off b) w ∈ new → ok a' w) (hG : G s) (hΦ : s.AtPhase a p b Φ) :
    G t ∧ t.AtPhase a p b Φ := by
  induction es generalizing s new with
  | nil =>
    cases hrun
    exact ⟨hG, hΦ⟩
  | cons e es ih =>
    obtain ⟨u, hu, hrun⟩ := runAll_cons_next hrun
    obtain ⟨new₁, h₁⟩ := runEvent_trace hu
    obtain ⟨new₂, h₂⟩ := runAll_trace hrun
    obtain rfl : new = new₂ ++ new₁ :=
      List.append_cancel_right (by rw [← htrace, h₂, h₁, List.append_assoc])
    obtain ⟨hGu, hΦu⟩ := R.event hinv hu (hne e List.mem_cons_self) (fun a' w hw => hok a' w (by
      have he : new₁ = [.write a' (Config.off b) w] := List.append_cancel_right (h₁.symm.trans hw)
      rw [he]
      exact List.mem_append_right _ List.mem_cons_self)) hG hΦ
    exact ih (runEvent_inv hinv hu) hrun (fun e' he => hne e' (List.mem_cons_of_mem _ he)) h₂
      (fun a' w hw => hok a' w (List.mem_append_left _ hw)) hGu hΦu

end Sys2Proof.Machine
end

section
/-! SUPPORT. The two halves of the round trip with release (41_line_driver.md R196), each by what holds at each phase
of its primitive. -/

namespace Sys2Proof.Machine

/-- Of the words pending on `b`, only `good` touches the line. -/
def State.OnlyTouched (b : Bus) (l : Line) (good : Word) (s : State) : Prop :=
  ∀ w ∈ s.pend.get b, touches l w = true → w = good

section
variable {b : Bus} {l : Line} {good w : Word} {s t : State}

theorem State.OnlyTouched.postStep (h : s.OnlyTouched b l good) : (postStep b s).OnlyTouched b l good :=
  fun w hw => h w ((postStep_pend_sublist b s b).subset hw)

theorem State.OnlyTouched.queues (h : s.OnlyTouched b l good) (hq : s.Queues b w t)
    (hw : touches l w = true → w = good) : t.OnlyTouched b l good := by
  rw [State.OnlyTouched, hq.1]
  exact List.forall_mem_append.2 ⟨h, List.forall_mem_singleton.2 hw⟩

theorem mem_of_queues {w' : Word} (h : w' ∈ s.pend.get b) (hq : s.Queues b w t) : w' ∈ t.pend.get b := by
  rw [hq.1]
  exact List.mem_append_left _ h

/-- A line stays driven as it is while only words that drive it so touch it. -/
theorem postStep_drive_of_onlyTouched {d : Drive} (hgood : ∀ u : State, (performWrite b good u).drive b l = d)
    (hq : s.OnlyTouched b l good) (hd : s.drive b l = d) : (postStep b s).drive b l = d :=
  postStep_of_performs (Q := fun w => touches l w = true → w = good) (P := fun u => u.drive b l = d)
    (fun w rest hw => by
      cases ht : touches l w with
      | true => rw [hw ht, hgood]
      | false => exact (performWith_drive_of_not_touches _ b _ ht b).trans hd) hq hd

/-- At a posting step a pending word is performed now or stays pending. -/
theorem postStep_of_mem (h : w ∈ s.pend.get b) :
    (∃ u, postStep b s = performWrite b w u) ∨ w ∈ (postStep b s).pend.get b := by
  obtain ⟨hp, -⟩ | ⟨w', rest, hp, he⟩ := postStep_cases b s
  · rw [hp] at h
    cases h
  rw [hp] at h
  obtain rfl | h := List.mem_cons.1 h
  · exact .inl ⟨_, he⟩
  · rw [postStep_pend_get, hp]
    exact .inr h

end

/-! ### After `SET_*` true the line is at level 1 -/

/-- What holds at each phase of a `SET_*` true: after its write the line is driven high or will be, and after its read
it is driven high for good. -/
def SetHighPhase (b : Bus) (l : Line) : Nat → Option Word → State → Prop
  | 0,     _, _ => True
  | 1,     _, s => s.drive b l = .high ∨ setWord l true ∈ s.pend.get b
  | _ + 2, _, s => s.drive b l = .high ∧ ∀ w ∈ s.pend.get b, touches l w = false

section
variable {b : Bus} {l : Line} {s t : State}

theorem performWrite_drive_setHigh (b : Bus) (l : Line) (s : State) :
    (performWrite b (setWord l true) s).drive b l = .high :=
  performWith_drive_setWord _ b s l true

theorem SetHighPhase.congr {k : Nat} {r : Option Word} (hd : t.drive b l = s.drive b l)
    (hq : t.pend.get b = s.pend.get b) (h : SetHighPhase b l k r s) : SetHighPhase b l k r t := by
  match k with
  | 0 => trivial
  | 1 => rw [SetHighPhase, hd, hq]; exact h
  | k + 2 => rw [SetHighPhase, hd, hq]; exact h

theorem SetHighPhase.post {k : Nat} {r : Option Word} (hq : s.OnlyTouched b l (setWord l true))
    (h : SetHighPhase b l k r s) : SetHighPhase b l k r (postStep b s) := by
  have hkeep := postStep_drive_of_onlyTouched (performWrite_drive_setHigh b l) hq
  match k, h with
  | 0, _ => trivial
  | 1, .inl hd => exact .inl (hkeep hd)
  | 1, .inr hmem =>
    obtain ⟨u, he⟩ | hmem := postStep_of_mem hmem
    · exact .inl (by rw [he, performWrite_drive_setHigh])
    · exact .inr hmem
  | k + 2, ⟨hd, hun⟩ => exact ⟨hkeep hd, fun w hw => hun w ((postStep_pend_sublist b s b).subset hw)⟩

theorem SetHighPhase.queue {k : Nat} {r : Option Word} {w : Word} (hq : s.Queues b w t) (hw : touches l w = false)
    (h : SetHighPhase b l k r s) : SetHighPhase b l k r t := by
  have hd : t.drive b l = s.drive b l := drive_of_sameWires hq.2
  match k, h with
  | 0, _ => trivial
  | 1, .inl h => exact .inl (hd.trans h)
  | 1, .inr h => exact .inr (mem_of_queues h hq)
  | k + 2, ⟨h, hun⟩ =>
    refine ⟨hd.trans h, ?_⟩
    rw [hq.1]
    exact List.forall_mem_append.2 ⟨hun, List.forall_mem_singleton.2 hw⟩

end

/-- Only the caller's own words touch the line, so no word does after its read. -/
theorem setHigh_rules (a : AgentId) (b : Bus) (l : Line) :
    PhaseRules a (setPrim l true) b l (fun a' w => touches l w = true → a' = a ∧ w = setWord l true)
      (fun s => s.peerLow.get b l = false ∧ s.OnlyTouched b l (setWord l true)) (SetHighPhase b l) where
  start := fun _ _ => trivial
  drift := fun s t hd ⟨hp, hq⟩ =>
    ⟨⟨hd.noPeer hp, by rw [State.OnlyTouched, hd.queue]; exact hq⟩, fun _ _ h => h.congr hd.drive hd.queue⟩
  post := fun s ⟨hp, hq⟩ =>
    ⟨⟨by rw [postStep_peerLow]; exact hp, hq.postStep⟩, fun _ _ h => h.post hq⟩
  queue := fun s t a' w hok hw ⟨hp, hq⟩ => by
    obtain ⟨-, -, -, hpeer, -⟩ := hw.2
    refine ⟨⟨by rw [hpeer]; exact hp, hq.queues hw fun ht => (hok ht).2⟩, fun ha k r h => h.queue hw ?_⟩
    exact Bool.eq_false_iff.2 fun ht => ha (hok ht).1
  write := fun s t k r w ho hw h => by
    rw [microOps_setPrim] at ho
    match k, ho with
    | 0, ho =>
      cases ho
      refine .inr ?_
      rw [hw.1]
      exact List.mem_append_right _ List.mem_cons_self
    | 1, ho | k + 2, ho => cases ho
  read := fun s k r ho hempty h => by
    rw [microOps_setPrim] at ho
    match k, ho, h with
    | 1, _, .inl hd => exact ⟨hd, by rw [hempty]; exact fun _ hw => absurd hw List.not_mem_nil⟩
    | 1, _, .inr hmem => rw [hempty] at hmem; cases hmem

/-- Settles O46, by the rules of the phases of a `SET_*` true. -/
theorem setHighLeavesLineHigh : Obligations.SetHighLeavesLineHigh := by
  intro s t es new a b l r hinv hr hp hun hrun hne htrace hok hseq
  have hstart : s.AtPhase a (setPrim l true) b (SetHighPhase b l) := fun k r hq => by rw [hr] at hq; cases hq
  have honly : s.OnlyTouched b l (setWord l true) := fun w hw ht => absurd ht (by simp [hun w hw])
  obtain ⟨⟨hpt, -⟩, hphase⟩ := (setHigh_rules a b l).run hinv hrun hne htrace hok ⟨hp, honly⟩ hstart
  obtain ⟨hd, hunt⟩ := hphase 2 r hseq
  exact ⟨level_of_high_drive hd hpt, hunt⟩

/-! ### A `GET_*` from a line at level 1 reads high -/

/-- What holds at each phase of a `GET_*` from a high line: after the release word the line is released or will be,
after the latch word its input latch is set or will be, and after the read the word has the input bit. -/
def GetHighPhase (b : Bus) (l : Line) : Nat → Option Word → State → Prop
  | 0,     _, _ => True
  | 1,     _, s => s.drive b l = .released ∨ relWord l ∈ s.pend.get b
  | 2,     _, s =>
    (s.drive b l = .released ∧ (s.inl.get b l = some true ∨ latchWord ∈ s.pend.get b)) ∨
    [relWord l, latchWord].Sublist (s.pend.get b)
  | _ + 3, r, _ => ∃ w, r = some w ∧ inputBit l w = true

section
variable {b : Bus} {l : Line} {s t : State} {k : Nat} {r : Option Word}

theorem performWrite_drive_relWord (b : Bus) (l : Line) (s : State) :
    (performWrite b (relWord l) s).drive b l = .released :=
  performWith_drive_relWord _ b s l

/-- A queued word, or a step that leaves the drive and the queue, may make the queue longer. -/
theorem GetHighPhase.mono (hd : t.drive b l = s.drive b l) (hi : s.inl.get b l = some true → t.inl.get b l = some true)
    (hq : (s.pend.get b).Sublist (t.pend.get b)) (h : GetHighPhase b l k r s) : GetHighPhase b l k r t := by
  match k, h with
  | 0, _ => trivial
  | 1, .inl h => exact .inl (hd.trans h)
  | 1, .inr h => exact .inr (hq.subset h)
  | 2, .inl ⟨h, h'⟩ => exact .inl ⟨hd.trans h, h'.imp hi fun hm => hq.subset hm⟩
  | 2, .inr h => exact .inr (h.trans hq)
  | k + 3, h => exact h

/-- The performance of the latch word on a high and released line sets its input latch. -/
theorem postStep_inl_of_high (hh : (postStep b s).High b l) (hd : (postStep b s).drive b l = .released)
    (h : s.inl.get b l = some true ∨ latchWord ∈ s.pend.get b) :
    (postStep b s).inl.get b l = some true ∨ latchWord ∈ (postStep b s).pend.get b := by
  obtain hi | hm := h
  · obtain ⟨-, he⟩ | ⟨w, rest, -, he⟩ := postStep_cases b s <;> rw [he] at hh hd ⊢
    · exact .inl hi
    · exact .inl (performWrite_inl_of_high hi hd hh)
  · obtain ⟨u, he⟩ | hm := postStep_of_mem hm
    · rw [he] at hh hd ⊢
      rw [performWrite_inl_of_latchWord hd, hh.level]
      exact .inl rfl
    · exact .inr hm

/-- The release word performed, its latch word is still to come. -/
theorem postStep_of_release_latch (h : [relWord l, latchWord].Sublist (s.pend.get b)) :
    ((postStep b s).drive b l = .released ∧ latchWord ∈ (postStep b s).pend.get b) ∨
    [relWord l, latchWord].Sublist ((postStep b s).pend.get b) := by
  obtain ⟨hp, -⟩ | ⟨w, rest, hp, he⟩ := postStep_cases b s
  · rw [hp] at h
    cases h
  rw [postStep_pend_get, hp, List.tail_cons]
  rw [hp] at h
  cases h with
  | cons _ h => exact .inr h
  | cons_cons _ h => exact .inl ⟨by rw [he, performWrite_drive_relWord], h.subset List.mem_cons_self⟩

theorem GetHighPhase.post (hh : s.High b l) (hq : s.OnlyTouched b l (relWord l)) (h : GetHighPhase b l k r s) :
    GetHighPhase b l k r (postStep b s) := by
  have hkeep := postStep_drive_of_onlyTouched (performWrite_drive_relWord b l) hq
  match k, h with
  | 0, _ => trivial
  | 1, .inl hd => exact .inl (hkeep hd)
  | 1, .inr hmem =>
    obtain ⟨u, he⟩ | hmem := postStep_of_mem hmem
    · exact .inl (by rw [he, performWrite_drive_relWord])
    · exact .inr hmem
  | 2, .inl ⟨hd, h⟩ => exact .inl ⟨hkeep hd, postStep_inl_of_high (hh.postStep hq) (hkeep hd) h⟩
  | 2, .inr h => exact (postStep_of_release_latch h).imp_left fun ⟨hd, hm⟩ => ⟨hd, .inr hm⟩
  | k + 3, h => exact h

end

/-- Only release words touch the line, so it stays at level 1 and, once released, released. -/
theorem getHigh_rules (a : AgentId) (b : Bus) (l : Line) :
    PhaseRules a (getPrim l) b l (fun _ w => touches l w = true → w = relWord l)
      (fun s => s.High b l ∧ s.OnlyTouched b l (relWord l)) (GetHighPhase b l) where
  start := fun _ _ => trivial
  drift := fun s t hd ⟨hh, hq⟩ =>
    ⟨⟨hd.high hh, by rw [State.OnlyTouched, hd.queue]; exact hq⟩,
      fun _ _ h => h.mono hd.drive (hd.inl hh) (hd.queue ▸ List.Sublist.refl _)⟩
  post := fun s ⟨hh, hq⟩ => ⟨⟨hh.postStep hq, hq.postStep⟩, fun _ _ h => h.post hh hq⟩
  queue := fun s t a' w hok hw ⟨hh, hq⟩ => by
    obtain ⟨-, -, hinl, -⟩ := hw.2
    exact ⟨⟨hh.of_sameWires hw.2, hq.queues hw hok⟩, fun _ k r h =>
      h.mono (drive_of_sameWires hw.2) (by rw [hinl]; exact id) (hw.1 ▸ List.sublist_append_left _ _)⟩
  write := fun s t k r w ho hw h => by
    have hd : t.drive b l = s.drive b l := drive_of_sameWires hw.2
    rw [microOps_getPrim] at ho
    match k, ho, h with
    | 0, ho, _ =>
      cases ho
      exact .inr (hw.1 ▸ List.mem_append_right _ List.mem_cons_self)
    | 1, ho, .inl h =>
      cases ho
      exact .inl ⟨hd.trans h, .inr (hw.1 ▸ List.mem_append_right _ List.mem_cons_self)⟩
    | 1, ho, .inr h =>
      cases ho
      exact .inr (hw.1 ▸ (List.singleton_sublist.2 h).append (List.Sublist.refl [latchWord]))
    | 2, ho, _ | k + 3, ho, _ => cases ho
  read := fun s k r ho hempty h => by
    rw [microOps_getPrim] at ho
    match k, ho, h with
    | 2, _, .inl ⟨_, .inl hi⟩ => exact ⟨_, rfl, inputBit_readValue hi⟩
    | 2, _, .inl ⟨_, .inr hm⟩ => rw [hempty] at hm; cases hm
    | 2, _, .inr hs => rw [hempty] at hs; cases hs

/-- Settles O47, by the rules of the phases of a `GET_*` from a line at level 1. -/
theorem getAfterReleaseReadsHigh : Obligations.GetAfterReleaseReadsHigh := by
  intro s t es new a b l r hinv hr hone hun hrun hne htrace hok hseq
  have hstart : s.AtPhase a (getPrim l) b (GetHighPhase b l) := fun k r hq => by rw [hr] at hq; cases hq
  obtain ⟨-, hphase⟩ :=
    (getHigh_rules a b l).run hinv hrun hne htrace hok ⟨high_of_level hinv hone, hun⟩ hstart
  exact hphase 3 r hseq

end Sys2Proof.Machine
end

section
/-! SUPPORT. An `ATTACH` between its start and its return (42_lifecycle.md R230): which agent's record an event changes,
how an agent comes to be inside an `ATTACH`, and what a step of one leaves. With them the claims that every step keeps
the window mapped under it (60_exceptions.md R259) and that none of its own steps faults. -/

namespace Sys2Proof.Machine

/-! ### Whose record an event changes -/

/-- An event leaves an agent's record, or it is that agent's own step. -/
theorem runEvent_agent {e : Event} {s t : State} (h : runEvent e s = .next t) (a : AgentId) :
    t.agent a = s.agent a ∨ ((e = .micro a ∨ ∃ q, e = .request a q) ∧ Move { s with actor := a } t) := by
  obtain ⟨a', he, hm⟩ | ⟨b, -, rfl⟩ | ⟨b, l, low, -, rfl⟩ | ⟨b, l, -, rfl⟩ | ⟨b, l, -, rfl⟩ := runEvent_cases h
  · by_cases ha : a = a'
    · subst ha; exact .inr ⟨he, hm⟩
    · exact .inl (hm.agent_ne ha)
  · exact .inl (by rw [State.agent, postStep_agents]; rfl)
  all_goals exact .inl rfl

theorem runEvent_request_of_engaged {a : AgentId} (q : Request) {s : State} (h : s.agent a ≠ .atRest) :
    runEvent (.request a q) s = .next { s with actor := a } :=
  runRequest_of_engaged (s := { s with actor := a }) q h

/-- A stopped agent makes no move. -/
theorem Move.eq_of_stopped {s t : State} (h : Move s t) (hs : s.me.stopped = true) : t = s := by
  have hrest : s.me ≠ .atRest := fun hr => by rw [hr] at hs; cases hs
  cases h with
  | stay => rfl
  | detachHold hd | detachNoop hd | detachClose hd =>
    obtain ⟨hr, -⟩ | ⟨-, -, hf⟩ := hd
    · exact absurd hr hrest
    · rw [hs] at hf; cases hf
  | write _ _ hr | read _ hr | flush _ hr | hold _ hr | start _ _ hr | openOk _ _ hr | mapError _ hr
  | attachOk _ _ hr | close hr | detachFirst _ _ hr => exact absurd hr hrest
  | _ => cases hs.symm.trans ‹s.me.stopped = false›

/-! ### How an agent comes to be inside an `ATTACH` -/

/-- After its move an agent is inside an `ATTACH` only if it was before, or it has just mapped the window for one. -/
theorem Move.attach {s t : State} {st : AttachStage} (h : Move s t) (hwf : agentsWf s.agents = true)
    (ht : (t.agent s.actor).task = .attach st) :
    (∃ st', s.me.task = .attach st') ∨ (t.win.status = .mapped ∧ (t.agent s.actor).stopped = false) := by
  have hset : ∀ {rec : AgentRec}, t.agents = (s.setMe rec).agents → rec.task = .attach st := fun he =>
    (congrArg AgentRec.task (agent_of_agents_eq hwf he)).symm.trans ht
  cases h with
  | attachReturn _ _ _ _ _ _ ht' => exact .inl ⟨_, ht'⟩
  | firstBus _ _ ht' | secondBus _ _ ht' => exact .inl ⟨_, ht'⟩
  | attachOk _ _ hr =>
    exact .inr ⟨rfl, (congrArg AgentRec.stopped (agent_of_agents_eq hwf rfl)).trans (stopped_of_atRest hr)⟩
  | stay | write | read | flush | openOk | mapError | close => exact .inl ⟨st, ht⟩
  | fault | refuse | start | primWrite | primRead | primReturn | primResult | attachStart =>
    have hme := hset rfl
    exact .inl ⟨st, hme⟩
  | _ => cases hset rfl

/-- The agent is inside an `ATTACH` that goes on. -/
def State.AttachRuns (a : AgentId) (s : State) : Prop :=
  ∃ st, (s.agent a).task = .attach st ∧ (s.agent a).stopped = false

theorem attachWindow_iff {s : State} : s.AttachWindow ↔ ∀ a, s.AttachRuns a → s.win.status = .mapped :=
  ⟨fun h a ⟨st, ht, hs⟩ => h a st ht hs, fun h a st ht hs => h a ⟨st, ht, hs⟩⟩

/-- An `ATTACH` that goes on after an event went on before it, or the event has mapped the window. -/
theorem runEvent_attachRuns {e : Event} {s t : State} {a : AgentId} (hwf : agentsWf s.agents = true)
    (h : runEvent e s = .next t) (ha : t.AttachRuns a) : s.AttachRuns a ∨ t.win.status = .mapped := by
  obtain ⟨st, ht, hs⟩ := ha
  obtain he | ⟨-, hm⟩ := runEvent_agent h a
  · exact .inl ⟨st, he ▸ ht, he ▸ hs⟩
  cases hstop : (s.agent a).stopped with
  | true =>
    obtain rfl := hm.eq_of_stopped hstop
    exact .inl ⟨st, ht, hs⟩
  | false =>
    obtain ⟨st', ht'⟩ | ⟨hmap, -⟩ := hm.attach hwf ht
    · exact .inl ⟨st', ht', hstop⟩
    · exact .inr hmap

/-- Where no `ATTACH` has the turn and no primitive is in flight, none goes on. -/
theorem not_attachRuns {s : State} (hinv : s.Inv) (hturn : s.attachTurn = none) (hy : s.busyAgents = [])
    (a : AgentId) : ¬ s.AttachRuns a := by
  rintro ⟨st, ht, hs⟩
  have hidle : (s.agent a).seq = .idle := by
    cases hq : (s.agent a).seq with
    | idle => rfl
    | busy p b k r =>
      have hmem : a ∈ s.busyAgents := (busyAgents_mem hinv.agentList).2 (by rw [hq]; rfl)
      rw [hy] at hmem
      cases hmem
  have hbetween := betweenPrims_iff.2 ⟨hidle, ⟨st, ht⟩, hs⟩
  rw [attachTurn_none hturn a] at hbetween
  cases hbetween

/-- The turn of an `ATTACH` leaves the window. -/
theorem win_of_attachTurn {s t : State} {a : AgentId} (hturn : s.attachTurn = some a)
    (h : runEvent (.micro a) s = .next t) : t.win = s.win := by
  obtain ⟨-, ⟨st, hst⟩, -⟩ := betweenPrims_iff.1 (attachTurn_some hturn)
  obtain he | ⟨-, ht⟩ := microStep_win h
  · exact he
  · rw [show ({ s with actor := a } : State).me.task = .attach st from hst] at ht
    obtain ht | ht := ht <;> cases ht

/-- Settles O38, by the cases of a step: the turn of an `ATTACH` leaves the window, and a scheduled event that closes it
finds no `ATTACH` that goes on, because one outside its primitives would have the turn and one inside them is busy. -/
theorem stepKeepsAttachWindow : Obligations.StepKeepsAttachWindow := by
  intro s t hinv hw hstep
  rw [attachWindow_iff] at hw ⊢
  intro a ha
  obtain ⟨a', hturn, hr⟩ | ⟨-, -, rfl⟩ | ⟨e, rest, hturn, -, hr⟩ := step_cases hstep
  · obtain hs | hmap := runEvent_attachRuns hinv.agentList hr ha
    · rw [win_of_attachTurn hturn hr]; exact hw a hs
    · exact hmap
  · exact hw a ha
  · obtain hs | hmap := runEvent_attachRuns (s := { s with schedule := rest }) hinv.agentList hr ha
    · obtain hwin | ⟨⟨-, hmap⟩, -⟩ | ⟨⟨-, -, -, hy, -⟩, -⟩ := runEvent_win hr
      · rw [hwin]; exact hw a hs
      · exact hmap
      · exact absurd hs (not_attachRuns hinv hturn hy a)
    · exact hmap

/-! ### What a step of an `ATTACH` leaves -/

/-- The acting agent's step records no fault, refuses nothing, leaves the window, and does not stop its agent. -/
structure State.Unharmed (s t : State) : Prop where
  faults : t.faults = s.faults
  refused : t.refused = s.refused
  win : t.win = s.win
  stopped : (t.agent s.actor).stopped = s.me.stopped

section
variable {s t : State} (hwf : agentsWf s.agents = true)
include hwf

theorem unharmed_of_setMe {rec : AgentRec} (hf : t.faults = s.faults) (hr : t.refused = s.refused)
    (hw : t.win = s.win) (ha : t.agents = (s.setMe rec).agents) (hs : rec.stopped = s.me.stopped) : s.Unharmed t :=
  ⟨hf, hr, hw, (congrArg AgentRec.stopped (agent_of_agents_eq hwf ha)).trans hs⟩

theorem attachStep_unharmed {st : AttachStage} (h : attachStep st s = .next t) : s.Unharmed t := by
  cases st with
  | initI2cClk | initI2cDat | initDdcClk | initDdcDat | registerI2c | registerDdc | finish =>
    cases h
    exact unharmed_of_setMe hwf rfl rfl rfl rfl rfl

theorem returnPrim_unharmed {p : Prim} {r : Option Word} (h : returnPrim p r s = .next t) : s.Unharmed t := by
  unfold returnPrim at h
  split at h <;> cases h <;> exact unharmed_of_setMe hwf rfl rfl rfl rfl rfl

omit hwf in
/-- Every word a primitive writes is legal (30_encoding.md R107). -/
theorem microOps_write_legal {p : Prim} {k : Nat} {w : Word} (h : (microOps p)[k]? = some (.write w)) :
    bitSet w Config.reservedMask = false := by
  have hmem := List.mem_of_getElem? h
  cases p <;> simp only [microOps, List.mem_cons, MicroOp.write.injEq, reduceCtorEq, List.not_mem_nil,
    or_false] at hmem
  case setClock | setData => rw [hmem]; exact setWord_legal _ _
  case getClock | getData =>
    obtain rfl | rfl := hmem
    · exact relWord_legal _
    · exact latchWord_legal

/-- With the window mapped a primitive's accesses pass their checks. -/
theorem primStep_unharmed {p : Prim} {b : Bus} {k : Nat} {r : Option Word} (hm : s.win.status = .mapped)
    (h : primStep p b k r s = .next t) : s.Unharmed t := by
  unfold primStep at h
  split at h
  · next w ho =>
    rw [writeThen_off b _ hm (microOps_write_legal ho)] at h
    cases h
    exact unharmed_of_setMe hwf rfl rfl rfl rfl rfl
  · rw [readThen_off b _ _ hm] at h
    split at h <;> cases h
    · exact unharmed_of_setMe hwf rfl rfl rfl rfl rfl
    · exact ⟨rfl, rfl, rfl, rfl⟩
  · split at h
    · exact returnPrim_unharmed hwf h
    · cases h

omit hwf in
theorem microStep_of_attach {st : AttachStage} (hq : s.me.seq = .idle) (ht : s.me.task = .attach st)
    (hs : s.me.stopped = false) : microStep s = attachStep st s := by
  simp only [microStep, hs, hq, ht, Bool.false_eq_true, if_false]

theorem microStep_unharmed_of_attach {st : AttachStage} (hm : s.win.status = .mapped) (ht : s.me.task = .attach st)
    (hs : s.me.stopped = false) (h : microStep s = .next t) : s.Unharmed t := by
  cases hq : s.me.seq with
  | idle => exact attachStep_unharmed hwf ((microStep_of_attach hq ht hs).symm.trans h)
  | busy p b k r => exact primStep_unharmed hwf hm ((microStep_of_busy hq hs).symm.trans h)

end

/-- Settles O56: a stopped agent takes no step, and the window is mapped under any other. -/
theorem attachStepNeverFaults : Obligations.AttachStepNeverFaults := by
  intro s t a st hinv hw ht hr
  cases hs : (s.agent a).stopped with
  | true =>
    obtain rfl := (microStep_move hr).eq_of_stopped hs
    exact ⟨rfl, rfl, rfl, fun h => by cases h⟩
  | false =>
    have hm : s.win.status = .mapped := hw a st ht hs
    have hu := microStep_unharmed_of_attach (s := { s with actor := a }) hinv.agentList hm ht hs hr
    exact ⟨hu.faults, hu.refused, hu.win, fun _ => ⟨hm, hu.stopped.trans hs⟩⟩

/-! ### An `ATTACH` along a run of the machine -/

/-- The agent has not stopped inside an `ATTACH`. -/
def State.AttachGoesOn (a : AgentId) (s : State) : Prop :=
  ∀ st, (s.agent a).task = .attach st → (s.agent a).stopped = false

theorem runEvent_attachGoesOn {e : Event} {s t : State} {a : AgentId} (hinv : s.Inv) (hw : s.AttachWindow)
    (h : s.AttachGoesOn a) (hr : runEvent e s = .next t) : t.AttachGoesOn a := by
  intro st' ht'
  obtain he | ⟨hown, hm⟩ := runEvent_agent hr a
  · rw [he] at ht' ⊢
    exact h st' ht'
  obtain ⟨st, ht⟩ | ⟨-, hs⟩ := hm.attach hinv.agentList ht'
  · have hs := h st ht
    obtain rfl | ⟨q, rfl⟩ := hown
    · obtain ⟨-, -, -, hgo⟩ := attachStepNeverFaults s t a st hinv hw ht hr
      exact (hgo hs).2
    · have hne : s.agent a ≠ .atRest := fun he => by cases ht.symm.trans (congrArg AgentRec.task he)
      cases (runEvent_request_of_engaged q hne).symm.trans hr
      exact hs
  · exact hs

theorem step_attachGoesOn {s t : State} {a : AgentId} (hinv : s.Inv) (hw : s.AttachWindow) (h : s.AttachGoesOn a)
    (hstep : step s = .next t) : t.AttachGoesOn a := by
  obtain ⟨a', -, hr⟩ | ⟨-, -, rfl⟩ | ⟨e, rest, -, -, hr⟩ := step_cases hstep
  · exact runEvent_attachGoesOn hinv hw h hr
  · exact h
  · exact runEvent_attachGoesOn (s := { s with schedule := rest }) (hinv.withSchedule rest) hw h hr

/-- What every step of the machine keeps, every run keeps. -/
theorem run_keeps {P : State → Prop} (hP : ∀ s t, P s → step s = .next t → P t) {n : Nat} {s t : State} (h : P s)
    (hrun : Host.Core.run Sys2Proof.core n s = .next t) : P t := by
  induction n generalizing s with
  | zero => cases hrun; exact h
  | succ n ih =>
    simp only [Host.Core.run] at hrun
    split at hrun
    · next u hu => exact ih (hP s u h hu) hrun
    · cases hrun
    · cases hrun

end Sys2Proof.Machine
end

section
/-! SUPPORT. Runs in which no `CLOSE` or `DETACH` is called or under way (42_lifecycle.md R230): no step engages an agent
in one, so the window stays mapped. With it the claim about an `ATTACH` in every run. -/

namespace Sys2Proof.Machine

/-! ### Which step engages an agent in a `CLOSE` or in a `DETACH` -/

/-- The agent is engaged in a `CLOSE` or in a `DETACH`. -/
def Task.Closing (k : Task) : Prop := k = .waiting .close ∨ ∃ rem, k = .detach rem

/-- The acting agent's step does not engage it in a `CLOSE` or in a `DETACH`. -/
def State.StartsNoClose (s t : State) : Prop := (t.agent s.actor).task.Closing → s.me.task.Closing

section
variable {s t : State} (hwf : agentsWf s.agents = true)
include hwf

theorem startsNoClose_of_setMe {rec : AgentRec} (he : t.agents = (s.setMe rec).agents)
    (hr : rec.task.Closing → s.me.task.Closing) : s.StartsNoClose t := by
  rw [State.StartsNoClose, agent_of_agents_eq hwf he]
  exact hr

theorem bareWrite_startsNoClose {off : Nat} {w : Word} (h : whenAtRest (writeThen off w id) s = .next t) :
    s.StartsNoClose t := by
  obtain rfl | ⟨-, h⟩ := whenAtRest_next h
  · exact id
  obtain ⟨r, rfl⟩ | ⟨r, rfl⟩ | ⟨b, -, -, -, rfl⟩ := writeThen_next h
  · exact startsNoClose_of_setMe hwf rfl id
  · exact startsNoClose_of_setMe hwf rfl id
  · exact id

theorem bareRead_startsNoClose {off : Nat} {op : HeldOp} {k : Word → State → State}
    (h : whenAtRest (readThen off (fun u => u.setTask (.waiting op)) k) s = .next t) (hop : op ≠ .close)
    (hk : ∀ v u, (k v u).agents = u.agents) : s.StartsNoClose t := by
  obtain rfl | ⟨-, h⟩ := whenAtRest_next h
  · exact id
  obtain ⟨r, rfl⟩ | ⟨r, rfl⟩ | ⟨b, -, -, ⟨-, rfl⟩ | ⟨-, rfl⟩⟩ := readThen_next h
  · exact startsNoClose_of_setMe hwf rfl id
  · exact startsNoClose_of_setMe hwf rfl id
  · rw [State.StartsNoClose, State.agent, hk]; exact id
  · refine startsNoClose_of_setMe hwf rfl ?_
    rintro (hc | ⟨_, hc⟩)
    · cases hc; exact absurd rfl hop
    · cases hc

theorem startPrim_startsNoClose {p : Prim} {b : Bus} (h : startPrim p b s = .next t) : s.StartsNoClose t := by
  obtain rfl | ⟨-, h⟩ := whenAtRest_next h
  · exact id
  split at h <;> cases h <;> exact startsNoClose_of_setMe hwf rfl id

theorem openThen_startsNoClose {phys : Nat} {k : State → State} (h : openThen phys k s = .next t)
    (hk : ∀ w, s.StartsNoClose (k { s with win := w })) : s.StartsNoClose t := by
  obtain ⟨r, rfl⟩ | ⟨-, ⟨a, rfl⟩ | ⟨a, -, rfl⟩⟩ := openThen_next h
  · exact startsNoClose_of_setMe hwf rfl id
  · exact id
  · exact hk _

theorem exec_startsNoClose {i : Instr} (h : exec i s = .next t) (hi : i ≠ .close ∧ i ≠ .detach) :
    s.StartsNoClose t := by
  cases i with
  | wr32 | wr32Ctl | setClk1 | setClk0 | setDat1 | setDat0 | relClk | relDat | latch =>
    exact bareWrite_startsNoClose hwf h
  | rd32 | flush => exact bareRead_startsNoClose hwf h (by simp) fun _ _ => rfl
  | primSetClk1 | primSetClk0 | primSetDat1 | primSetDat0 | primGetClk | primGetDat =>
    exact startPrim_startsNoClose hwf h
  | openWin phys =>
    obtain rfl | ⟨-, h⟩ := whenAtRest_next h
    · exact id
    exact openThen_startsNoClose hwf h fun _ => id
  | attach phys =>
    obtain rfl | ⟨-, h⟩ := whenAtRest_next h
    · exact id
    refine openThen_startsNoClose hwf h fun _ => startsNoClose_of_setMe hwf rfl ?_
    rintro (hc | ⟨_, hc⟩) <;> cases hc
  | close => exact absurd rfl hi.1
  | detach => exact absurd rfl hi.2

/-- No access is a `CLOSE` or a `DETACH`. -/
theorem runRequest_startsNoClose {q : Request} (h : runRequest q s = .next t)
    (hq : q ≠ .call .close ∧ q ≠ .call .detach) : s.StartsNoClose t := by
  cases q with
  | call i => exact exec_startsNoClose hwf h ⟨fun he => hq.1 (he ▸ rfl), fun he => hq.2 (he ▸ rfl)⟩
  | acc width w =>
    simp only [runRequest] at h
    split at h
    · obtain rfl | ⟨-, h⟩ := whenAtRest_next h
      · exact id
      · cases h; exact startsNoClose_of_setMe hwf rfl id
    split at h
    · next i hdec =>
      refine exec_startsNoClose hwf h ⟨?_, ?_⟩ <;> rintro rfl <;> cases accessWord_of_decode hdec
    · obtain rfl | ⟨-, h⟩ := whenAtRest_next h
      · exact id
      · cases h

theorem Move.startsNoClose (h : Move s t) (hr : s.me ≠ .atRest) : s.StartsNoClose t := by
  have hset : ∀ {rec : AgentRec}, t.agents = (s.setMe rec).agents → (rec.task.Closing → s.me.task.Closing) →
      s.StartsNoClose t := startsNoClose_of_setMe hwf
  have hnone : (Task.none).Closing → s.me.task.Closing := by rintro (hc | ⟨_, hc⟩) <;> cases hc
  have hattach : ∀ st, (Task.attach st).Closing → s.me.task.Closing := by rintro _ (hc | ⟨_, hc⟩) <;> cases hc
  cases h with
  | detachNext _ _ _ _ ht => exact fun _ => .inr ⟨_, ht⟩
  | detachHold hd =>
    obtain ⟨hr', -⟩ | ⟨-, ht, -⟩ := hd
    · exact absurd hr' hr
    · exact fun _ => .inr ⟨_, ht⟩
  | hold _ hr' | detachFirst _ _ hr' | attachOk _ _ hr' => exact absurd hr' hr
  | stay | write | read | flush | openOk | mapError | close => exact id
  | attachReturn | firstBus | secondBus => exact hset rfl (hattach _)
  | attachDone | retryRead | retryFlush | retryClose | retryCloseNoop | detachNoop | detachClose =>
    exact hset rfl hnone
  | _ => exact hset rfl id

theorem microStep_startsNoClose (h : microStep s = .next t) : s.StartsNoClose t := by
  by_cases hr : s.me = .atRest
  · cases (microStep_of_atRest hr).symm.trans h
    exact id
  · exact (microStep_move h).startsNoClose hwf hr

end

/-! ### The window along such a run -/

/-- No agent is engaged in a `CLOSE` or in a `DETACH`. -/
def State.NoneClosing (s : State) : Prop := ∀ a, ¬ (s.agent a).task.Closing

/-- The event calls neither `CLOSE` nor `DETACH`. -/
def Event.CallsNoClose (e : Event) : Prop := ∀ a, e ≠ .request a (.call .close) ∧ e ≠ .request a (.call .detach)

theorem runEvent_noneClosing {e : Event} {s t : State} (hinv : s.Inv) (h : s.NoneClosing) (he : e.CallsNoClose)
    (hr : runEvent e s = .next t) : t.NoneClosing := by
  intro a
  obtain hsame | ⟨rfl | ⟨q, rfl⟩, -⟩ := runEvent_agent hr a
  · rw [hsame]; exact h a
  · exact mt (microStep_startsNoClose (s := { s with actor := a }) hinv.agentList hr) (h a)
  · refine mt (runRequest_startsNoClose (s := { s with actor := a }) hinv.agentList hr ?_) (h a)
    exact ⟨fun hq => (he a).1 (hq ▸ rfl), fun hq => (he a).2 (hq ▸ rfl)⟩

theorem runEvent_mapped {e : Event} {s t : State} (h : s.NoneClosing) (he : e.CallsNoClose)
    (hm : s.win.status = .mapped) (hr : runEvent e s = .next t) : t.win.status = .mapped := by
  obtain hw | ⟨⟨-, hmap⟩, -⟩ | ⟨-, a, rfl | rfl | ⟨-, ht⟩⟩ := runEvent_win hr
  · rw [hw]; exact hm
  · exact hmap
  · exact absurd rfl (he a).1
  · exact absurd rfl (he a).2
  · exact absurd (ht.imp_right fun ht => ⟨[], ht⟩) (h a)

theorem runAll_mapped {es : List Event} {s t : State} (hinv : s.Inv) (h : s.NoneClosing)
    (he : ∀ e ∈ es, e.CallsNoClose) (hm : s.win.status = .mapped) (hrun : runAll es s = .next t) :
    t.win.status = .mapped := by
  induction es generalizing s with
  | nil => cases hrun; exact hm
  | cons e es ih =>
    obtain ⟨u, hu, hrun⟩ := runAll_cons_next hrun
    obtain ⟨he, hes⟩ := List.forall_mem_cons.1 he
    exact ih (runEvent_inv hinv hu) (runEvent_noneClosing hinv h he hu) hes (runEvent_mapped h he hm hu) hrun

/-- Settles O57: each step of the machine keeps the invariant, the window under an `ATTACH`, and an `ATTACH` going on;
where nobody closes, each event keeps the window. -/
theorem attachNeverFaults : Obligations.AttachNeverFaults := by
  intro s a st hinv hw ht hs
  refine ⟨fun n t st' hrun ht' => ?_, fun hnone es t hes hrun => ?_⟩
  · have hkeep : ∀ s t : State, s.Inv ∧ s.AttachWindow ∧ s.AttachGoesOn a → step s = .next t →
        t.Inv ∧ t.AttachWindow ∧ t.AttachGoesOn a := fun s t ⟨hi, hw, hg⟩ hstep =>
      ⟨stepKeepsInv s t hi hstep, stepKeepsAttachWindow s t hi hw hstep, step_attachGoesOn hi hw hg hstep⟩
    obtain ⟨-, hwt, hgt⟩ := run_keeps hkeep ⟨hinv, hw, fun _ _ => hs⟩ hrun
    exact ⟨hgt st' ht', hwt a st' ht' (hgt st' ht')⟩
  · have hnone' : s.NoneClosing := fun a' hc => hc.elim (hnone a').1 fun ⟨rem, hd⟩ => (hnone a').2 rem hd
    exact runAll_mapped hinv hnone' hes (hw a st ht hs) hrun

end Sys2Proof.Machine
end

section
/-! SUPPORT. `DETACH` (42_lifecycle.md R234, R235): one equation for each case of one of its steps. With them the claims
about its first step, its further steps, and the whole of it after an `ATTACH`. -/

namespace Sys2Proof.Machine

/-! ### One step of a `DETACH` -/

section
variable {s : State} {k : Task} (h : s.me = { AgentRec.atRest with task := k })
include h

theorem setTask_of_me (k' : Task) : s.setTask k' = s.setAgent s.actor { AgentRec.atRest with task := k' } := by
  rw [State.setTask, State.setMe, h]

theorem detachStep_cons (x : LogicalBus) (rest : List LogicalBus) :
    detachStep (x :: rest) s = .next ({ s with buses := s.buses.filter fun y => y ≠ x }.setAgent s.actor
      { AgentRec.atRest with task := .detach rest }) :=
  congrArg _ (setTask_of_me (s := { s with buses := s.buses.filter fun y => y ≠ x }) h _)

theorem detachStep_nil_of_not_mapped (hn : s.win.status ≠ .mapped) :
    detachStep [] s = .next ({ s with attached := false }.setAgent s.actor .atRest) := by
  rw [detachStep, closeThen_of_not_mapped _ _ hn]
  exact congrArg _ (setTask_of_me (s := { s with attached := false }) h .none)

omit h in
theorem detachStep_nil_of_in_use (hm : s.win.status = .mapped) (hu : s.buses ≠ [] ∨ s.busyAgents ≠ []) :
    detachStep [] s = .next (raiseFault (.teardownOrder (s.buses.map LogicalBus.name) s.busyAgents) s) := by
  rw [detachStep, closeThen_of_in_use _ _ hm hu]

theorem detachStep_nil_of_pending (hm : s.win.status = .mapped) (hb : s.buses = []) (hy : s.busyAgents = [])
    (hp : ∃ b, s.pend.get b ≠ []) :
    detachStep [] s = .next (s.setAgent s.actor { AgentRec.atRest with task := .detach [] }) := by
  rw [detachStep, closeThen_of_pending _ _ hm hb hy hp, setTask_of_me h]

theorem detachStep_nil_of_drained (hm : s.win.status = .mapped) (hb : s.buses = []) (hy : s.busyAgents = [])
    (hp : ∀ b, s.pend.get b = []) :
    detachStep [] s = .next
      ({ s with win := { status := .closed, base := none }, attached := false }.setAgent s.actor .atRest) := by
  rw [detachStep, closeThen_of_drained _ _ hm hb hy hp]
  exact congrArg _ (setTask_of_me
    (s := { s with win := { status := .closed, base := none }, attached := false }) h .none)

end

/-! ### The first step and the further steps -/

theorem exec_detach {s : State} {l : List LogicalBus} (hr : s.agent s.actor = .atRest) (hb : s.buses.reverse = l) :
    exec .detach s = detachStep l s := by
  rw [exec, execDetach, whenAtRest_of_atRest hr, hb]

/-- Settles O58: the first step is that of a `DETACH` with every registered bus still to unregister, last first. -/
theorem detachUnregistersLastBusFirst : Obligations.DetachUnregistersLastBusFirst := by
  intro s hr
  have hnil : s.buses = [] → exec .detach s = detachStep [] s := fun hb => exec_detach hr (by rw [hb]; rfl)
  refine ⟨fun front x hb => ?bus, fun hb hn => ?notMapped, fun hb hm hy => ?inUse, fun hb hm hy hp => ?pending,
    fun hb hm hy hp => ?drained⟩
  case bus =>
    have hrev : s.buses.reverse = x :: front.reverse := by rw [hb, List.reverse_append, List.reverse_singleton]; rfl
    exact (exec_detach hr hrev).trans (detachStep_cons hr x front.reverse)
  case notMapped => exact (hnil hb).trans (detachStep_nil_of_not_mapped hr hn)
  case inUse =>
    have hstep := (hnil hb).trans (detachStep_nil_of_in_use hm (.inr hy))
    rwa [hb] at hstep
  case pending => exact (hnil hb).trans (detachStep_nil_of_pending hr hm hb hy hp)
  case drained => exact (hnil hb).trans (detachStep_nil_of_drained hr hm hb hy hp)

theorem runEvent_micro_of_detach {s : State} {a : AgentId} {rem : List LogicalBus}
    (h : s.agent a = { AgentRec.atRest with task := .detach rem }) :
    runEvent (.micro a) s = detachStep rem { s with actor := a } := by
  have hme : ({ s with actor := a } : State).me = { AgentRec.atRest with task := .detach rem } := h
  simp only [runEvent, microStep, hme, AgentRec.atRest, Bool.false_eq_true, if_false]

/-- Putting an agent's own record back changes nothing. -/
theorem setAgent_of_agent {s : State} {a : AgentId} {r : AgentRec} (hinv : s.Inv) (h : s.agent a = r) :
    s.setAgent a r = s := by
  rw [State.setAgent, ← h, State.agent, insertAgent_lookup hinv.agentList]

/-- Settles O59, by the cases of one step of a `DETACH`; one that holds leaves its agent as it is. -/
theorem detachLaterSteps : Obligations.DetachLaterSteps := by
  intro s a hinv
  refine ⟨fun x rest h => ?bus, fun h => ⟨fun hn => ?notMapped, fun hm hu => ?inUse, fun hm hb hy hp => ?pending,
    fun hm hb hy hp => ?drained⟩⟩
  case bus => exact (runEvent_micro_of_detach h).trans (detachStep_cons (s := { s with actor := a }) h x rest)
  case notMapped =>
    exact (runEvent_micro_of_detach h).trans (detachStep_nil_of_not_mapped (s := { s with actor := a }) h hn)
  case inUse => exact (runEvent_micro_of_detach h).trans (detachStep_nil_of_in_use (s := { s with actor := a }) hm hu)
  case pending =>
    have hstep := (runEvent_micro_of_detach h).trans
      (detachStep_nil_of_pending (s := { s with actor := a }) h hm hb hy hp)
    exact hstep.trans (congrArg _ (setAgent_of_agent (hinv.withActor a) h))
  case drained =>
    exact (runEvent_micro_of_detach h).trans
      (detachStep_nil_of_drained (s := { s with actor := a }) h hm hb hy hp)

/-! ### The whole of a `DETACH` -/

theorem busyAgents_eq_nil_iff {s : State} (hwf : agentsWf s.agents = true) :
    s.busyAgents = [] ↔ ∀ a, (s.agent a).seq.isBusy = false := by
  simp only [List.eq_nil_iff_forall_not_mem, busyAgents_mem hwf, Bool.not_eq_true]

/-- An agent that gets a record outside primitives makes nobody busy. -/
theorem busyAgents_setAgent {s : State} {a : AgentId} {r : AgentRec} (hwf : agentsWf s.agents = true)
    (hy : s.busyAgents = []) (hr : r.seq = .idle) : (s.setAgent a r).busyAgents = [] := by
  refine (busyAgents_eq_nil_iff (insertAgent_wf a r hwf)).2 fun a' => ?_
  by_cases ha : a' = a
  · rw [ha, setAgent_agent_self s a r hwf, hr]; rfl
  · rw [setAgent_agent_ne s r ha]; exact (busyAgents_eq_nil_iff hwf).1 hy a'

/-- Settles O60: the first step takes the registry in reverse, DDC and then I2C, and the third is the `CLOSE`. -/
theorem detachTearsDownInReverse : Obligations.DetachTearsDownInReverse := by
  intro s a hinv hr hm hb hy hp
  have hddc : s.buses.filter (fun y => y ≠ logicalBus .ddc) = [logicalBus .i2c] := by rw [hb]; decide
  have hi2c : [logicalBus .i2c].filter (fun y => y ≠ logicalBus .i2c) = [] := by decide
  obtain ⟨hfirst, -⟩ := detachUnregistersLastBusFirst { s with actor := a } hr
  have h₁ : runEvent (.request a (.call .detach)) s = _ := hfirst [logicalBus .i2c] (logicalBus .ddc) hb
  rw [hddc] at h₁
  have hinv₁ := runEvent_inv hinv h₁
  obtain ⟨hnext, -⟩ := detachLaterSteps _ a hinv₁
  have h₂ := hnext (logicalBus .i2c) [] (setAgent_agent_self _ _ _ hinv.agentList)
  rw [setAgent_buses, hi2c] at h₂
  have hinv₂ := runEvent_inv hinv₁ h₂
  obtain ⟨-, hlast⟩ := detachLaterSteps _ a hinv₂
  obtain ⟨-, -, -, hclose⟩ := hlast (setAgent_agent_self _ _ _ hinv₁.agentList)
  have hy₂ := busyAgents_setAgent (a := a) (r := { AgentRec.atRest with task := .detach [] }) hinv₁.agentList
    (busyAgents_setAgent hinv.agentList hy rfl) rfl
  have h₃ := hclose hm rfl hy₂ hp
  have hself := setAgent_agent_self _ a .atRest hinv₂.agentList
  refine ⟨_, _, _, h₁, rfl, h₂, rfl, rfl, h₃, hself, rfl, fun a' => ?_⟩
  by_cases ha : a' = a
  · rw [ha, hr]; exact hself
  · exact (setAgent_agent_ne _ _ ha).trans ((setAgent_agent_ne _ _ ha).trans (setAgent_agent_ne _ _ ha))

end Sys2Proof.Machine
end

section
/-! SUPPORT. A whole `ATTACH` after its `OPEN`, run by its agent with nobody else moving but the posting path
(42_lifecycle.md R230 to R232): the idle initialisation of one line, then the two registrations and the return. With
them the claim about all of it. -/

namespace Sys2Proof.Machine

/-- The record of an agent inside an `ATTACH`. -/
def inAttach (st : AttachStage) (q : SeqState) : AgentRec := { seq := q, task := .attach st, stopped := false }

/-- From `s` to `t` nothing changes but the agent, its buses and `attached`, the queues, the latches and what is
observed. -/
structure State.Aside (a : AgentId) (s t : State) : Prop where
  otherAgents : ∀ a', a' ≠ a → t.agent a' = s.agent a'
  win : t.win = s.win
  faults : t.faults = s.faults
  refused : t.refused = s.refused
  peerLow : t.peerLow = s.peerLow
  schedule : t.schedule = s.schedule

theorem State.Aside.trans {a : AgentId} {s t u : State} (h : s.Aside a t) (h' : t.Aside a u) : s.Aside a u where
  otherAgents := fun a' ha => (h'.otherAgents a' ha).trans (h.otherAgents a' ha)
  win := h'.win.trans h.win
  faults := h'.faults.trans h.faults
  refused := h'.refused.trans h.refused
  peerLow := h'.peerLow.trans h.peerLow
  schedule := h'.schedule.trans h.schedule

theorem State.Frame.aside {a : AgentId} {b : Bus} {s t : State} (h : s.Frame a b t) : s.Aside a t :=
  ⟨h.otherAgents, h.win, h.faults, h.refused, h.peerLow, h.schedule⟩

theorem runAll_append {es es' : List Event} {s t : State} (h : runAll es s = .next t) :
    runAll (es ++ es') s = runAll es' t := by
  induction es generalizing s with
  | nil => cases h; rfl
  | cons e es ih =>
    obtain ⟨u, hu, h⟩ := runAll_cons_next h
    exact (runAll_cons hu).trans (ih h)

/-! ### The steps of one initialisation -/

section
variable {s : State} {a : AgentId} {b : Bus} {st : AttachStage} {p : Prim} {k : Nat} {r : Option Word}

theorem runEvent_micro_of_inAttach (h : s.agent a = inAttach st .idle) :
    runEvent (.micro a) s = attachStep st { s with actor := a } :=
  microStep_of_attach (s := { s with actor := a }) (congrArg AgentRec.seq h) (congrArg AgentRec.task h)
    (congrArg AgentRec.stopped h)

theorem runEvent_micro_of_inAttach_busy (h : s.agent a = inAttach st (.busy p b k r)) :
    runEvent (.micro a) s = primStep p b k r { s with actor := a } :=
  microStep_of_busy (s := { s with actor := a }) (congrArg AgentRec.seq h) (congrArg AgentRec.stopped h)

theorem setSeq_inAttach {q : SeqState} (h : s.agent a = inAttach st q) (q' : SeqState) :
    { s.agent a with seq := q' } = inAttach st q' := by
  rw [h]
  rfl

theorem attachStep_of_prim (hst : AttachStage.prim st = some (p, b)) (u : State) :
    attachStep st u = .next (u.setSeq (.busy p b 0 none)) := by
  cases st with
  | initI2cClk | initI2cDat | initDdcClk | initDdcDat => cases hst; rfl
  | registerI2c | registerDdc | finish => cases hst

theorem attachStart_step (hinv : s.Inv) (h : s.agent a = inAttach st .idle)
    (hst : AttachStage.prim st = some (p, b)) :
    ∃ t, runEvent (.micro a) s = .next t ∧
      s.CallerStep a b (inAttach st (.busy p b 0 none)) (s.pend.get b) [] t := by
  refine ⟨_, (runEvent_micro_of_inAttach h).trans (attachStep_of_prim hst _), callerStep_of_setAgent hinv ?_⟩
  rw [PerBus.set_get, ← setSeq_inAttach h]
  rfl

theorem attachWrite_step {w : Word} (hinv : s.Inv) (h : s.agent a = inAttach st (.busy p b k r))
    (hm : s.win.status = .mapped) (ho : (microOps p)[k]? = some (.write w)) :
    ∃ t, runEvent (.micro a) s = .next t ∧
      s.CallerStep a b (inAttach st (.busy p b (k + 1) r)) (s.pend.get b ++ [w]) [.write a (Config.off b) w] t := by
  rw [runEvent_micro_of_inAttach_busy h, primStep, ho]
  refine ⟨_, writeThen_off (s := { s with actor := a }) b _ hm (microOps_write_legal ho),
    callerStep_of_setAgent hinv ?_⟩
  rw [← setSeq_inAttach h]
  rfl

theorem attachRead_step (hinv : s.Inv) (h : s.agent a = inAttach st (.busy p b k r))
    (hm : s.win.status = .mapped) (hp : s.pend.get b = []) (ho : (microOps p)[k]? = some .read) :
    ∃ t, runEvent (.micro a) s = .next t ∧
      s.CallerStep a b (inAttach st (.busy p b (k + 1) (some (readValue b s)))) []
        [.read a (Config.off b) (readValue b s)] t := by
  rw [runEvent_micro_of_inAttach_busy h, primStep, ho]
  refine ⟨_, (readThen_off (s := { s with actor := a }) b _ _ hm).trans (if_pos hp), callerStep_of_setAgent hinv ?_⟩
  rw [← setSeq_inAttach h, ← hp, PerBus.set_get]
  rfl

/-- The return of an initialisation's primitive: the `ATTACH` stands at its next stage. -/
theorem attachReturn_step (hinv : s.Inv) (h : s.agent a = inAttach st (.busy p b (microOps p).length r))
    (hl : resultLine p = none) :
    ∃ t, runEvent (.micro a) s = .next t ∧ s.CallerStep a b (inAttach st.next .idle) (s.pend.get b) [] t := by
  have hme : ({ s with actor := a } : State).me = inAttach st (.busy p b (microOps p).length r) := h
  refine ⟨({ s with actor := a } : State).setMe (inAttach st.next .idle), ?_, callerStep_of_setAgent hinv ?_⟩
  · rw [runEvent_micro_of_inAttach_busy h, primStep, List.getElem?_length, if_pos rfl]
    simp only [returnPrim, hme, inAttach, hl]
  · rw [PerBus.set_get]
    rfl

end

/-! ### The initialisation of one line (R231) -/

/-- The line is an output driven high. -/
def State.DrivenHigh (b : Bus) (l : Line) (s : State) : Prop :=
  s.dir.get b l = some .output ∧ s.out.get b l = some true

/-- From `s` to `t` agent `a` drives the line high and goes on with its `ATTACH` at `st`; `r` is the word read. -/
structure State.Initialises (a : AgentId) (b : Bus) (l : Line) (st : AttachStage) (r : Word) (s t : State) : Prop where
  agent : t.agent a = inAttach st .idle
  queues : ∀ b', t.pend.get b' = []
  high : t.DrivenHigh b l
  keeps : ∀ b' l', s.DrivenHigh b' l' → t.DrivenHigh b' l'
  trace : t.trace = [.read a (Config.off b) r, .perform (Config.off b) (setWord l true),
    .write a (Config.off b) (setWord l true)] ++ s.trace
  aside : s.Aside a t

/-- The write joins an empty queue (`c₂`), the posting path performs it, and the read and the return follow (`c₄`). -/
theorem runAll_initialises {s : State} {a : AgentId} {b : Bus} {l : Line} {st : AttachStage} (hinv : s.Inv)
    (hm : s.win.status = .mapped) (hp : ∀ b, s.pend.get b = []) (h : s.agent a = inAttach st .idle)
    (hst : AttachStage.prim st = some (setPrim l true, b)) :
    ∃ t r, runAll [.micro a, .micro a, .post b, .micro a, .micro a] s = .next t ∧ t.Inv ∧
      s.Initialises a b l st.next r t := by
  obtain ⟨s₁, h₁, c₁⟩ := attachStart_step hinv h hst
  have hinv₁ := runEvent_inv hinv h₁
  obtain ⟨s₂, h₂, c₂⟩ := attachWrite_step (w := setWord l true) hinv₁ c₁.agent (c₁.frame.win ▸ hm)
    (by rw [microOps_setPrim]; rfl)
  replace c₂ := c₁.trans c₂
  have hq : s₂.pend.get b = [] ++ [setWord l true] := by rw [c₂.queue, c₁.queue, hp b]
  have f := c₂.frame.trans (frame_drained a b s₂)
  have hinv₂ := inv_drained (runEvent_inv hinv₁ h₂) b
  obtain ⟨s₃, h₃, c₃⟩ := attachRead_step hinv₂ ((drained_agent a b s₂).trans c₂.agent) (f.win ▸ hm)
    (drained_pend b s₂) (by rw [microOps_setPrim]; rfl)
  have hinv₃ := runEvent_inv hinv₂ h₃
  obtain ⟨s₄, h₄, c₄⟩ := attachReturn_step hinv₃ (by rw [c₃.agent, microOps_setPrim]; rfl) (resultLine_setPrim l true)
  replace c₄ := c₃.trans c₄
  replace f := f.trans c₄.frame
  have hhigh : s₄.DrivenHigh b l := by
    obtain ⟨hdir₄, hout₄, -⟩ := c₄.wires
    rw [State.DrivenHigh, hdir₄, hout₄]
    exact drained_of_setWord hq
  refine ⟨s₄, readValue b (s₂.drained b), ?run, runEvent_inv hinv₃ h₄, c₄.agent, fun b' => ?queues, hhigh,
    fun b' l' hs => ?keeps, ?trace, f.aside⟩
  case run =>
    rw [runAll_cons h₁, runAll_cons h₂]
    refine (runAll_drain b [.micro a, .micro a] (n := 1) (by rw [hq]; rfl)).trans ?_
    rw [runAll_cons h₃, runAll_cons h₄, runAll]
  case queues =>
    by_cases hb : b' = b
    · rw [hb, c₄.queue, c₃.queue]
    · obtain ⟨-, -, -, hpend⟩ := f.otherBus b' l hb
      rw [hpend, hp b']
  case keeps =>
    by_cases hb : b' = b
    · subst hb
      by_cases hl : l' = l
      · rw [hl]; exact hhigh
      · have hun : ∀ w ∈ s₂.pend.get b', touches l' w = false := by
          rw [hq]; exact List.forall_mem_singleton.2 (touches_setWord_ne true hl)
        obtain ⟨hdir, hout⟩ := latches_of_drain c₂.wires hun c₄.wires
        exact ⟨hdir.trans hs.1, hout.trans hs.2⟩
    · obtain ⟨hdir, hout, -⟩ := f.otherBus b' l' hb
      exact ⟨hdir.trans hs.1, hout.trans hs.2⟩
  case trace =>
    rw [c₄.trace, drained_trace, hq, c₂.trace]
    rfl

/-! ### The registrations and the return (R232) -/

section
variable {s : State} {a : AgentId}

theorem registerI2c_step (h : s.agent a = inAttach .registerI2c .idle) :
    runEvent (.micro a) s =
      .next ({ s with actor := a, buses := [logicalBus .i2c] }.setAgent a (inAttach .registerDdc .idle)) :=
  (runEvent_micro_of_inAttach h).trans (congrArg Host.Outcome.next
    (setTask_of_me (s := { s with actor := a, buses := [logicalBus .i2c] }) h _))

theorem registerDdc_step (h : s.agent a = inAttach .registerDdc .idle) :
    runEvent (.micro a) s =
      .next ({ s with actor := a, buses := s.buses ++ [logicalBus .ddc] }.setAgent a (inAttach .finish .idle)) :=
  (runEvent_micro_of_inAttach h).trans (congrArg Host.Outcome.next
    (setTask_of_me (s := { s with actor := a, buses := s.buses ++ [logicalBus .ddc] }) h _))

theorem finish_step (h : s.agent a = inAttach .finish .idle) :
    runEvent (.micro a) s = .next
      ({ s with actor := a, attached := true, trace := .returned a .ok :: s.trace }.setAgent a .atRest) :=
  (runEvent_micro_of_inAttach h).trans (congrArg Host.Outcome.next
    (setTask_of_me (s := { s with actor := a, attached := true, trace := .returned a .ok :: s.trace }) h .none))

theorem setAgent_inAttach (u : State) (a : AgentId) (st : AttachStage) (q : SeqState) :
    (u.setAgent a (inAttach st q)).agent a = inAttach st q :=
  lookup_insert_self_of_ne _ fun he => by cases congrArg AgentRec.task he

theorem runAll_registers (hinv : s.Inv) (h : s.agent a = inAttach .registerI2c .idle) :
    ∃ t, runAll [.micro a, .micro a, .micro a] s = .next t ∧ t.agent a = .atRest ∧ t.attached = true ∧
      t.buses = [logicalBus .i2c, logicalBus .ddc] ∧ t.trace = .returned a .ok :: s.trace ∧ t.pend = s.pend ∧
      s.SameWires t ∧ s.Aside a t := by
  have hwf := insertAgent_wf a (inAttach .finish .idle)
    (insertAgent_wf a (inAttach .registerDdc .idle) hinv.agentList)
  refine ⟨_, (runAll_cons (registerI2c_step h)).trans
      ((runAll_cons (registerDdc_step (setAgent_inAttach _ _ _ _))).trans
        (runAll_cons (finish_step (setAgent_inAttach _ _ _ _)))),
    lookup_insert_self _ hwf, rfl, rfl, rfl, rfl, ⟨rfl, rfl, rfl, rfl, rfl⟩,
    fun a' ha => ?_, rfl, rfl, rfl, rfl, rfl⟩
  exact (setAgent_agent_ne _ _ ha).trans ((setAgent_agent_ne _ _ ha).trans (setAgent_agent_ne _ _ ha))

end

/-! ### The whole of it -/

/-- Settles O55: the four lines are initialised one after the other, each keeping those before it driven high; then the
registrations and the return follow. -/
theorem attachInitialisesAndRegisters : Obligations.AttachInitialisesAndRegisters := by
  intro s a hinv hm hp h
  obtain ⟨s₁, r₁, h₁, hinv₁, i₁⟩ := runAll_initialises (b := .i2c) (l := .clk) hinv hm hp h rfl
  obtain ⟨s₂, r₂, h₂, hinv₂, i₂⟩ :=
    runAll_initialises (b := .i2c) (l := .dat) hinv₁ (i₁.aside.win ▸ hm) i₁.queues i₁.agent rfl
  have f₂ := i₁.aside.trans i₂.aside
  obtain ⟨s₃, r₃, h₃, hinv₃, i₃⟩ :=
    runAll_initialises (b := .ddc) (l := .clk) hinv₂ (f₂.win ▸ hm) i₂.queues i₂.agent rfl
  have f₃ := f₂.trans i₃.aside
  obtain ⟨s₄, r₄, h₄, hinv₄, i₄⟩ :=
    runAll_initialises (b := .ddc) (l := .dat) hinv₃ (f₃.win ▸ hm) i₃.queues i₃.agent rfl
  obtain ⟨t, h₅, hagent, hatt, hbuses, htrace, hpend, ⟨hdir, hout, -⟩, f₅⟩ := runAll_registers hinv₄ i₄.agent
  have f := (f₃.trans i₄.aside).trans f₅
  have hhigh : ∀ b l, t.DrivenHigh b l := fun b l => by
    rw [State.DrivenHigh, hdir, hout]
    match b, l with
    | .i2c, .clk => exact i₄.keeps _ _ (i₃.keeps _ _ (i₂.keeps _ _ i₁.high))
    | .i2c, .dat => exact i₄.keeps _ _ (i₃.keeps _ _ i₂.high)
    | .ddc, .clk => exact i₄.keeps _ _ i₃.high
    | .ddc, .dat => exact i₄.high
  refine ⟨t, r₁, r₂, r₃, r₄, ?run, hagent, hatt, hbuses, fun b l => ?lines, ?trace, fun b => ?queues,
    f.otherAgents, f.win, f.faults, f.refused, f.peerLow, f.schedule⟩
  case run =>
    exact (runAll_append h₁).trans ((runAll_append h₂).trans ((runAll_append h₃).trans ((runAll_append h₄).trans h₅)))
  case lines =>
    obtain ⟨hd, ho⟩ := hhigh b l
    refine ⟨hd, ho, fun hpeer => level_of_high_drive (by rw [State.drive, hd, ho]; rfl) ?_⟩
    rw [f.peerLow]
    exact hpeer
  case trace =>
    rw [htrace, i₄.trace, i₃.trace, i₂.trace, i₁.trace]
    rfl
  case queues =>
    rw [hpend]
    exact i₄.queues b

end Sys2Proof.Machine
end

section
/-! SUPPORT. When a step answers a next state: every operation does, every micro-step of an agent whose sequencer makes
sense (10_state.md R43) does, and of the requests all but one form do. With them the claim that no fault or refusal of
the spec ends a run (60_exceptions.md R253, R256, R257). -/

namespace Sys2Proof.Machine

/-! ### Operations -/

theorem startPrim_total (p : Prim) (b : Bus) (s : State) : ∃ t, startPrim p b s = .next t := by
  refine whenAtRest_total ?_
  split <;> exact ⟨_, rfl⟩

theorem detachStep_total (rem : List LogicalBus) (s : State) : ∃ t, detachStep rem s = .next t := by
  cases rem with
  | nil => simp only [detachStep]; exact closeThen_total _ _ s
  | cons x rest => exact ⟨_, rfl⟩

theorem exec_total (i : Instr) (s : State) : ∃ t, exec i s = .next t := by
  cases i with
  | wr32 | wr32Ctl | setClk1 | setClk0 | setDat1 | setDat0 | relClk | relDat | latch =>
    exact whenAtRest_total (writeThen_total _ _ _ s)
  | rd32 | flush => exact whenAtRest_total (readThen_total _ _ _ s)
  | primSetClk1 b | primSetClk0 b | primSetDat1 b | primSetDat0 b | primGetClk b | primGetDat b =>
    exact startPrim_total _ b s
  | openWin phys | attach phys => exact whenAtRest_total (openThen_total phys _ s)
  | close => exact whenAtRest_total (closeThen_total _ _ s)
  | detach => exact whenAtRest_total (detachStep_total _ s)

/-! ### Micro-steps -/

theorem retryHeld_total (op : HeldOp) (s : State) : ∃ t, retryHeld op s = .next t := by
  cases op with
  | read off | flush off => simp only [retryHeld]; exact readThen_total off _ _ s
  | close => simp only [retryHeld]; exact closeThen_total _ _ s

theorem attachStep_total (st : AttachStage) (s : State) : ∃ t, attachStep st s = .next t := by
  cases st <;> exact ⟨_, rfl⟩

/-- The primitives of the idle initialisation return no level (42_lifecycle.md R231). -/
theorem resultLine_of_attachPrim {st : AttachStage} {p : Prim} {b : Bus} (h : AttachStage.prim st = some (p, b)) :
    resultLine p = none := by
  cases st <;> cases h <;> rfl

/-- A primitive that has read a word returns: a caller's gives its level or nothing, and that of an `ATTACH` nothing. -/
theorem returnPrim_total {p : Prim} {b : Bus} {w : Word} {s : State}
    (h : s.me.task = .none ∨ ∃ st, s.me.task = .attach st ∧ AttachStage.prim st = some (p, b)) :
    ∃ t, returnPrim p (some w) s = .next t := by
  obtain ht | ⟨st, ht, hst⟩ := h
  · cases hl : resultLine p <;> simp only [returnPrim, ht, hl] <;> exact ⟨_, rfl⟩
  · simp only [returnPrim, ht, resultLine_of_attachPrim hst]
    exact ⟨_, rfl⟩

/-- The index is that of an access, or of the return with the word that was read. -/
theorem primStep_total {p : Prim} {b : Bus} {k : Nat} {r : Option Word} {s : State} (hwf : agentWf s.me)
    (hq : s.me.seq = .busy p b k r) : ∃ t, primStep p b k r s = .next t := by
  obtain ⟨htask, hk, hr⟩ := (agentWf_of_busy hq).1 hwf
  unfold primStep
  split
  · exact writeThen_total _ _ _ s
  · exact readThen_total _ _ _ s
  · next hlast =>
    have hk : k = (microOps p).length := Nat.le_antisymm hk (List.getElem?_eq_none_iff.1 hlast)
    obtain ⟨w, rfl⟩ := Option.isSome_iff_exists.1 (hr.2 hk)
    rw [if_pos hk]
    exact returnPrim_total htask

theorem microStep_total {s : State} (hwf : agentWf s.me) : ∃ t, microStep s = .next t := by
  unfold microStep
  split
  · exact ⟨s, rfl⟩
  split
  · next hq => exact primStep_total hwf hq
  · exact ⟨s, rfl⟩
  · exact retryHeld_total _ s
  · exact attachStep_total _ s
  · exact detachStep_total _ s

/-! ### Requests, events and steps -/

/-- The request that ends a run: a 32-bit access, by an agent at rest, whose word encodes no access (30_encoding.md
R100; assumption log 13). -/
def State.Undecodable (s : State) (e : Event) (r : Refusal) : Prop :=
  ∃ a w why, e = .request a (.acc Config.wordBits w) ∧ s.agent a = .atRest ∧ decode w = .error why ∧
    r = .undecodable why

theorem runEvent_request_total_or_undecodable (a : AgentId) (q : Request) (s : State) :
    (∃ t, runEvent (.request a q) s = .next t) ∨
    ∃ r, runEvent (.request a q) s = .refused r ∧ s.Undecodable (.request a q) r := by
  by_cases hrest : s.agent a = .atRest
  case neg => exact .inl ⟨_, runEvent_request_of_engaged q hrest⟩
  cases q with
  | call i => exact .inl (exec_total i _)
  | acc width w =>
    simp only [runEvent, runRequest]
    split
    · exact .inl (whenAtRest_total ⟨_, rfl⟩)
    · next hwidth =>
      obtain rfl := not_not.1 hwidth
      split
      · exact .inl (exec_total _ _)
      · next why hdec =>
        exact .inr ⟨_, whenAtRest_of_atRest (s := { s with actor := a }) hrest, a, w, why, rfl, hrest, hdec, rfl⟩

theorem runEvent_total_or_undecodable {s : State} (hinv : s.Inv) (e : Event) :
    (∃ t, runEvent e s = .next t) ∨ ∃ r, runEvent e s = .refused r ∧ s.Undecodable e r := by
  cases e with
  | request a q => exact runEvent_request_total_or_undecodable a q s
  | micro a => exact .inl (microStep_total (s := { s with actor := a }) (hinv.agentRecs a))
  | post b => exact .inl ⟨_, rfl⟩
  | peer b l low => exact .inl ⟨_, rfl⟩
  | settle b l => exact .inl ⟨_, rfl⟩
  | sample b l => exact .inl ⟨_, rfl⟩

theorem step_total_or_undecodable {s : State} (hinv : s.Inv) :
    (∃ t, step s = .next t) ∨
    ∃ r e rest, step s = .refused r ∧ s.schedule = e :: rest ∧ s.Undecodable e r := by
  cases hturn : s.attachTurn with
  | some a =>
    rw [step_of_attachTurn_some hturn]
    exact .inl (microStep_total (s := { s with actor := a }) (hinv.agentRecs a))
  | none =>
    cases hsched : s.schedule with
    | nil => exact .inl ⟨s, step_of_schedule_nil hturn hsched⟩
    | cons e rest =>
      rw [step_of_schedule_cons hturn hsched]
      exact (runEvent_total_or_undecodable (hinv.withSchedule rest) e).imp_right fun ⟨r, hr, hund⟩ =>
        ⟨r, e, rest, hr, rfl, hund⟩

/-- Settles O40: under the invariant a step answers a next state, or refuses the one request that encodes no access. -/
theorem machineNeverStops : Obligations.MachineNeverStops := by
  intro s hinv
  obtain ⟨t, hnext⟩ | ⟨r, e, rest, href, hsched, a, w, why, rfl, hrest, hdec, rfl⟩ := step_total_or_undecodable hinv
  · rw [hnext]
    exact ⟨nofun, nofun⟩
  · rw [href]
    refine ⟨nofun, fun r hr => ?_⟩
    cases hr
    exact ⟨a, w, rest, why, hsched, hrest, hdec, rfl⟩

end Sys2Proof.Machine
end

section
/-! SUPPORT. Fault entry and refusal (60_exceptions.md R253, R256): an event that is neither records no fault and notes
no refusal, both leave the same agents, and a stopped agent has no step. With them the claims about all three. -/

namespace Sys2Proof.Machine

/-- An agent's own step: its micro-step, or a request of it. -/
def Event.IsStepOf (e : Event) (a : AgentId) : Prop := e = .micro a ∨ ∃ q, e = .request a q

/-! ### The agents after either -/

/-- The acting agent has stopped where it is, and no other record changes. -/
theorem agent_of_stops {s t : State} (ht : t.agents = insertAgent s.actor { s.me with stopped := true } s.agents) :
    t.agent s.actor = { s.me with stopped := true } ∧ ∀ a, a ≠ s.actor → t.agent a = s.agent a := by
  simp only [State.agent, ht]
  exact ⟨lookup_insert_self_of_ne _ fun he => Bool.noConfusion (congrArg AgentRec.stopped he),
    fun a ha => lookup_insert_ne _ _ ha⟩

/-! ### Faults (R256) -/

theorem addFault_of_ne {f : FaultRecord} {l : List FaultRecord} (h : addFault f l ≠ l) : addFault f l = f :: l := by
  unfold addFault at h ⊢
  split at h
  · exact absurd rfl h
  · next hf => exact if_neg hf

theorem Move.fault_of_ne {s t : State} (h : Move s t) (hne : t.faults ≠ s.faults) :
    s.me.stopped = false ∧ ∃ r, t = raiseFault r s := by
  cases h with
  | fault r hs => exact ⟨hs, r, rfl⟩
  | _ => exact absurd rfl hne

theorem runEvent_fault_of_ne {e : Event} {s t : State} (h : runEvent e s = .next t) (hne : t.faults ≠ s.faults) :
    ∃ a r, e.IsStepOf a ∧ (s.agent a).stopped = false ∧ t = raiseFault r { s with actor := a } := by
  obtain ⟨a, he, hm⟩ | ⟨b, -, rfl⟩ | ⟨b, l, low, -, rfl⟩ | ⟨b, l, -, rfl⟩ | ⟨b, l, -, rfl⟩ := runEvent_cases h
  · obtain ⟨hs, r, rfl⟩ := hm.fault_of_ne hne
    exact ⟨a, r, he, hs, rfl⟩
  · exact absurd (postStep_faults b s) hne
  all_goals exact absurd rfl hne

/-- Settles O29: an event that changes the fault set is the entry of a fault, which was not recorded before. -/
theorem faultEntryChangesNothingElse : Obligations.FaultEntryChangesNothingElse := by
  intro e s t hrun hne
  obtain ⟨a, r, he, hs, rfl⟩ := runEvent_fault_of_ne hrun hne
  obtain ⟨hself, hother⟩ := agent_of_stops (raiseFault_agents r { s with actor := a })
  exact ⟨a, r, he, hs, addFault_of_ne hne, hself, hother, rfl⟩

/-! ### Refusals (R253) -/

/-- From `s` to `t` the mark is left, and no refusal is noted. -/
def State.RefusesNothing (s t : State) : Prop :=
  t.refused = s.refused ∧ ∃ new, t.trace = new ++ s.trace ∧ ∀ a r, .refused a r ∉ new

theorem State.RefusesNothing.silent {s t : State} (hr : t.refused = s.refused) (ht : t.trace = s.trace) :
    s.RefusesNothing t :=
  ⟨hr, [], ht, fun _ _ => List.not_mem_nil⟩

theorem State.RefusesNothing.one {s t : State} {o : Obs} (hr : t.refused = s.refused) (ht : t.trace = o :: s.trace)
    (ho : ∀ a r, o ≠ .refused a r) : s.RefusesNothing t :=
  ⟨hr, [o], ht, fun a r hmem => ho a r (List.mem_singleton.1 hmem).symm⟩

/-- A bare `RD32` is observed twice, as the read and as its result. -/
theorem State.RefusesNothing.readResult {s t : State} {a a' : AgentId} {x : Result} {off : Nat} {v : Word}
    (hr : t.refused = s.refused) (ht : t.trace = .returned a x :: .read a' off v :: s.trace) : s.RefusesNothing t :=
  ⟨hr, [.returned a x, .read a' off v], ht, by simp⟩

theorem Move.refusal {s t : State} (h : Move s t) :
    (s.me.stopped = false ∧ ∃ r, t = refuseOp r s) ∨ s.RefusesNothing t := by
  cases h with
  | refuse r hs => exact .inl ⟨hs, r, rfl⟩
  | read | retryRead => exact .inr (.readResult rfl rfl)
  | write | flush | openOk | mapError | primWrite | primRead | primResult | attachDone | retryFlush =>
    exact .inr (.one rfl rfl nofun)
  | _ => exact .inr (.silent rfl rfl)

theorem postStep_refusesNothing (b : Bus) (s : State) : s.RefusesNothing (postStep b s) := by
  obtain ⟨-, he⟩ | ⟨w, rest, -, he⟩ := postStep_cases b s <;> rw [he]
  · exact .silent rfl rfl
  · exact .one rfl rfl nofun

theorem runEvent_refusal {e : Event} {s t : State} (h : runEvent e s = .next t) :
    (∃ a r, e.IsStepOf a ∧ (s.agent a).stopped = false ∧ t = refuseOp r { s with actor := a }) ∨
    s.RefusesNothing t := by
  obtain ⟨a, he, hm⟩ | ⟨b, -, rfl⟩ | ⟨b, l, low, -, rfl⟩ | ⟨b, l, -, rfl⟩ | ⟨b, l, -, rfl⟩ := runEvent_cases h
  · exact hm.refusal.imp_left fun ⟨hs, r, ht⟩ => ⟨a, r, he, hs, ht⟩
  · exact .inr (postStep_refusesNothing b s)
  all_goals exact .inr (.silent rfl rfl)

/-- Settles O30: an event that notes a refusal is that refusal, whose note is the only one it adds. -/
theorem refusalChangesNothingElse : Obligations.RefusalChangesNothingElse := by
  intro e s t hrun
  obtain ⟨a, r, he, hs, rfl⟩ | ⟨hmark, new, htrace, hnone⟩ := runEvent_refusal hrun
  · refine ⟨fun _ => ⟨a, r, rfl⟩, fun new a' r' htrace hmem => ?_⟩
    have hnew : [.refused a r] = new := List.append_cancel_right (bs := s.trace) htrace
    cases List.mem_singleton.1 (hnew ▸ hmem)
    obtain ⟨hself, hother⟩ := agent_of_stops (refuseOp_agents r { s with actor := a })
    exact ⟨he, hs, rfl, rfl, hself, hother, rfl⟩
  · refine ⟨fun hne => absurd hmark hne, fun new' a r htrace' hmem => ?_⟩
    obtain rfl : new = new' := List.append_cancel_right (htrace.symm.trans htrace')
    exact absurd hmem (hnone a r)

/-! ### A stopped agent -/

theorem microStep_of_stopped {s : State} (h : s.me.stopped = true) : microStep s = .next s := if_pos h

/-- Settles O32: an event is no step of the agent and leaves its record, or is a move of it, which leaves it stopped
where it is; its own micro-steps and requests answer the state they ran in. -/
theorem stoppedAgentTakesNoStep : Obligations.StoppedAgentTakesNoStep := by
  intro s a hs
  have hengaged : s.agent a ≠ .atRest := fun hr => Bool.noConfusion (hs.symm.trans (congrArg AgentRec.stopped hr))
  refine ⟨fun e t hrun => ?record, microStep_of_stopped (s := { s with actor := a }) hs,
    fun q => runEvent_request_of_engaged q hengaged⟩
  case record =>
    obtain he | ⟨-, hm⟩ := runEvent_agent hrun a
    · exact he
    · rw [hm.eq_of_stopped hs, agent_mk_actor]

end Sys2Proof.Machine
end

section
/-! SUPPORT. The state after reset (70_reset_and_hazards.md R290): what its lines and queues are. With it the
claims about reset. -/

namespace Sys2Proof.Machine

theorem PerLine.get_const {α : Type} (x : α) (b : Bus) (l : Line) : (⟨x, x, x, x⟩ : PerLine α).get b l = x := by
  cases b <;> cases l <;> rfl

@[simp] theorem reset_dir_get (b : Bus) (l : Line) : State.reset.dir.get b l = none := PerLine.get_const none b l
@[simp] theorem reset_out_get (b : Bus) (l : Line) : State.reset.out.get b l = none := PerLine.get_const none b l
@[simp] theorem reset_inl_get (b : Bus) (l : Line) : State.reset.inl.get b l = none := PerLine.get_const none b l
@[simp] theorem reset_settled_get (b : Bus) (l : Line) : State.reset.settled.get b l = false :=
  PerLine.get_const false b l
@[simp] theorem reset_peerLow_get (b : Bus) (l : Line) : State.reset.peerLow.get b l = Config.resetPeerLow b l := by
  cases b <;> cases l <;> rfl
@[simp] theorem reset_pend_get (b : Bus) : State.reset.pend.get b = [] := by cases b <;> rfl

/-- No latch has been written, so no line has a known drive (41_line_driver.md R181). -/
@[simp] theorem reset_drive (b : Bus) (l : Line) : State.reset.drive b l = .unknown := by
  rw [State.drive, reset_dir_get, driveOf]

@[simp] theorem reset_level (b : Bus) (l : Line) : State.reset.level b l = .x := by
  rw [State.level, reset_drive, levelOf]

/-- Settles O7, field by field. -/
theorem resetStateAsSpecified : Obligations.ResetStateAsSpecified :=
  ⟨rfl, fun b l => ⟨reset_dir_get b l, reset_out_get b l, reset_inl_get b l, reset_settled_get b l, reset_drive b l,
    reset_level b l⟩, reset_peerLow_get, reset_pend_get, fun _ => rfl, rfl, rfl, rfl, rfl⟩

theorem reset_inv : State.reset.Inv where
  agentList := rfl
  agentRecs := fun _ => agentWf_of_idle rfl
  window := rfl
  legalWords := fun b w hw => by
    rw [reset_pend_get] at hw
    exact absurd hw List.not_mem_nil
  drained := fun _ => reset_pend_get
  lines := fun b l => by rw [reset_drive, reset_settled_get, settledOf]
  names := fun _ hx => absurd hx List.not_mem_nil
  faultSet := List.nodup_nil
  faultStops := fun _ hf => absurd hf List.not_mem_nil

/-- Settles O39: nothing is listed, queued, registered or recorded at reset, and every agent is at rest. -/
theorem resetMeetsInv : Obligations.ResetMeetsInv :=
  ⟨reset_inv, fun _ _ ht => by cases ht⟩

end Sys2Proof.Machine
end

section
/-! SUPPORT. Fair runs (70_reset_and_hazards.md R303): how a weakly fair event brings a run from one fact to another, and
what an event does to an agent in a primitive and to the queue its reads wait for. With them the claim that every
primitive ends. -/

namespace Sys2Proof.Machine

/-! ### Progress along a run -/

/-- Wherever `P` holds along the run, `Q` holds then or later. -/
def LeadsTo (states : Nat → State) (P Q : State → Prop) : Prop :=
  ∀ n, P (states n) → ∃ m, n ≤ m ∧ Q (states m)

section
variable {states : Nat → State} {events : Nat → Event} {P Q : State → Prop}

/-- The event `e` is weakly fair and enabled under `P`, and `P` lasts under any other event unless `Q` comes; so `Q`
comes. -/
theorem leadsTo_of_weaklyFair {enabled : State → Prop} {e : Event} (hfair : WeaklyFair states events enabled e)
    (henabled : ∀ s, P s → enabled s)
    (hnext : ∀ n, P (states n) → Q (states (n + 1)) ∨ (P (states (n + 1)) ∧ events n ≠ e)) :
    LeadsTo states P Q := by
  intro n hn
  by_contra! hnever
  have hstays : ∀ m, n ≤ m → P (states m) → P (states (m + 1)) ∧ events m ≠ e := fun m hm hP =>
    (hnext m hP).resolve_left (hnever (m + 1) (Nat.le_succ_of_le hm))
  have halways : ∀ m, n ≤ m → P (states m) := Nat.le_induction hn fun m hm hP => (hstays m hm hP).1
  obtain ⟨m, hm, he⟩ := hfair n fun m hm => henabled _ (halways m hm)
  exact (hstays m hm (halways m hm)).2 he

/-- Where `P` leads to `Q` or to a smaller `size` under `P`, it leads to `Q`. -/
theorem leadsTo_of_decreases (size : State → Nat)
    (h : ∀ c, LeadsTo states (fun s => P s ∧ size s = c) fun s => Q s ∨ (P s ∧ size s < c)) :
    LeadsTo states P Q := by
  intro n hn
  induction hc : size (states n) using Nat.strong_induction_on generalizing n with
  | _ c ih =>
    obtain ⟨m, hm, hQ | ⟨hP, hlt⟩⟩ := h c n ⟨hn, hc⟩
    · exact ⟨m, hm, hQ⟩
    · obtain ⟨m', hm', hQ⟩ := ih _ hlt m hP rfl
      exact ⟨m', hm.trans hm', hQ⟩

end

/-! ### What an event does to an agent in a primitive -/

/-- The agent goes on at micro-step `k` of its primitive, in a state that meets the invariant. -/
structure State.GoesOnAt (a : AgentId) (p : Prim) (b : Bus) (k : Nat) (s : State) : Prop where
  inv : s.Inv
  running : (s.agent a).stopped = false
  seq : ∃ r, (s.agent a).seq = .busy p b k r

/-- The agent has stopped or is not in the primitive. -/
def State.HasLeft (a : AgentId) (p : Prim) (b : Bus) (s : State) : Prop :=
  (s.agent a).stopped = true ∨ ∀ k r, (s.agent a).seq ≠ .busy p b k r

/-- The agent has left micro-step `k`: for the next, or for good. -/
def State.Advanced (a : AgentId) (p : Prim) (b : Bus) (k : Nat) (s : State) : Prop :=
  s.HasLeft a p b ∨ s.GoesOnAt a p b (k + 1)

section
variable {s t : State} {a : AgentId} {p : Prim} {b : Bus} {k : Nat}

theorem hasLeft_of_idle (h : (s.agent a).seq = .idle) : s.HasLeft a p b :=
  .inr fun _ _ hq => by cases h.symm.trans hq

theorem State.GoesOnAt.of_agent (h : s.GoesOnAt a p b k) (ht : t.Inv) (hagent : t.agent a = s.agent a) :
    t.GoesOnAt a p b k :=
  ⟨ht, hagent ▸ h.running, hagent ▸ h.seq⟩

theorem State.GoesOnAt.le_length (h : s.GoesOnAt a p b k) : k ≤ (microOps p).length := by
  obtain ⟨r, hq⟩ := h.seq
  obtain ⟨-, hk, -⟩ := (agentWf_of_busy hq).1 (h.inv.agentRecs a)
  exact hk

theorem State.GoesOnAt.not_advanced (h : s.GoesOnAt a p b k) : ¬ s.Advanced a p b k := by
  obtain ⟨r, hq⟩ := h.seq
  rintro ((hs | hne) | hnext)
  · exact Bool.noConfusion (hs.symm.trans h.running)
  · exact hne k r hq
  · obtain ⟨r', hq'⟩ := hnext.seq
    have hk : k = k + 1 := by cases hq.symm.trans hq'
    omega

/-- The agent's own micro-step: it is held by a pending write, or it advances. -/
theorem State.GoesOnAt.micro (h : s.GoesOnAt a p b k) (hrun : runEvent (.micro a) s = .next t) :
    (s.pend.get b ≠ [] ∧ t = { s with actor := a }) ∨ t.Advanced a p b k := by
  obtain ⟨r, hq⟩ := h.seq
  obtain ⟨-, r', hq', hs'⟩ | ⟨-, hp, rfl⟩ | ⟨-, ht⟩ | ⟨-, -, ht⟩ | ⟨-, st, -, ht⟩ :=
    microStepsAdvanceByOne s t a p b k r h.inv hq h.running hrun
  · exact .inr (.inr ⟨runEvent_inv h.inv hrun, hs', r', hq'⟩)
  · exact .inl ⟨hp, rfl⟩
  · exact .inr (.inl (.inl (congrArg AgentRec.stopped ht)))
  · exact .inr (.inl (hasLeft_of_idle (congrArg AgentRec.seq ht)))
  · exact .inr (.inl (hasLeft_of_idle (congrArg AgentRec.seq ht)))

theorem State.GoesOnAt.microEnabled (h : s.GoesOnAt a p b k) (hp : s.pend.get b = []) : microEnabled a s := by
  intro hrun
  obtain ⟨hne, -⟩ | hadv := h.micro hrun
  · exact hne hp
  · exact (h.of_agent (h.inv.withActor a) (agent_mk_actor s a a)).not_advanced hadv

/-- An event that is not its own micro-step leaves the agent where it is: its requests do nothing. -/
theorem State.GoesOnAt.of_ne_micro {e : Event} (h : s.GoesOnAt a p b k) (hrun : runEvent e s = .next t)
    (hne : e ≠ .micro a) : t.GoesOnAt a p b k := by
  refine h.of_agent (runEvent_inv h.inv hrun) ?_
  obtain hagent | ⟨hmicro | ⟨q, rfl⟩, -⟩ := runEvent_agent hrun a
  · exact hagent
  · exact absurd hmicro hne
  · obtain ⟨r, hq⟩ := h.seq
    have hengaged : s.agent a ≠ .atRest := fun hrest => by cases hq.symm.trans (congrArg AgentRec.seq hrest)
    cases (runEvent_request_of_engaged q hengaged).symm.trans hrun
    rfl

theorem pend_of_post (hrun : runEvent (.post b) s = .next t) : t.pend.get b = (s.pend.get b).tail := by
  cases hrun
  exact postStep_pend_get b s

/-- Where only the agent adds to the queue, an event advances it or leaves it with a queue no longer than before; and its
own micro-step advances it unless a write is pending. -/
theorem State.GoesOnAt.event {e : Event} (h : s.GoesOnAt a p b k) (hrun : runEvent e s = .next t)
    (hgrow : (s.pend.get b).length < (t.pend.get b).length → e = .micro a) :
    t.Advanced a p b k ∨ (t.GoesOnAt a p b k ∧ (t.pend.get b).length ≤ (s.pend.get b).length ∧
      (e = .micro a → s.pend.get b ≠ [])) := by
  by_cases he : e = .micro a
  · subst he
    obtain ⟨hp, rfl⟩ | hadv := h.micro hrun
    · exact .inr ⟨h.of_agent (h.inv.withActor a) rfl, Nat.le_refl _, fun _ => hp⟩
    · exact .inl hadv
  · exact .inr ⟨h.of_ne_micro hrun he, Nat.not_lt.1 fun hlt => he (hgrow hlt), fun he' => absurd he' he⟩

end

/-! ### Every primitive ends -/

section
variable {states : Nat → State} {events : Nat → Event} {a : AgentId} {b : Bus} {p : Prim}
  (hfair : FairRun states events)
  (hgrow : ∀ n, ((states n).pend.get b).length < ((states (n + 1)).pend.get b).length → events n = .micro a)
include hfair hgrow

/-- With nothing pending the agent's own micro-step is enabled until it advances. -/
theorem leadsTo_advanced_of_drained (k : Nat) :
    LeadsTo states (fun s => s.GoesOnAt a p b k ∧ s.pend.get b = []) (State.Advanced a p b k) := by
  obtain ⟨hrun, -, -, hmicro⟩ := hfair
  refine leadsTo_of_weaklyFair (hmicro a) (fun s h => h.1.microEnabled h.2) fun n ⟨hat, hp⟩ => ?_
  refine (hat.event (hrun n) (hgrow n)).imp_right fun ⟨hat', hlen, hheld⟩ => ⟨⟨hat', ?_⟩, fun he => hheld he hp⟩
  rw [hp] at hlen
  exact List.eq_nil_of_length_eq_zero (Nat.le_zero.1 hlen)

/-- With a write pending the posting path performs one, unless the agent advances before. -/
theorem leadsTo_advanced_or_shorter (k c : Nat) :
    LeadsTo states (fun s => s.GoesOnAt a p b k ∧ (s.pend.get b).length = c + 1)
      fun s => s.Advanced a p b k ∨ (s.GoesOnAt a p b k ∧ (s.pend.get b).length < c + 1) := by
  obtain ⟨hrun, hpost, -, -⟩ := hfair
  refine leadsTo_of_weaklyFair (hpost b) (fun s h => List.ne_nil_of_length_eq_add_one h.2) fun n ⟨hat, hp⟩ => ?_
  obtain hadv | ⟨hat', hle, -⟩ := hat.event (hrun n) (hgrow n)
  · exact .inl (.inl hadv)
  obtain hlt | heq := Nat.lt_or_eq_of_le (hp ▸ hle)
  · exact .inl (.inr ⟨hat', hlt⟩)
  · refine .inr ⟨⟨hat', heq⟩, fun he => ?_⟩
    rw [pend_of_post (he ▸ hrun n), List.length_tail, hp] at heq
    omega

/-- Every micro-step of a primitive is taken, by induction on the queue it may wait for. -/
theorem leadsTo_advanced (k : Nat) : LeadsTo states (State.GoesOnAt a p b k) (State.Advanced a p b k) := by
  refine leadsTo_of_decreases (fun s => (s.pend.get b).length) fun c => ?_
  cases c with
  | zero =>
    intro n ⟨hat, hlen⟩
    obtain ⟨m, hm, hadv⟩ := leadsTo_advanced_of_drained hfair hgrow k n ⟨hat, List.eq_nil_of_length_eq_zero hlen⟩
    exact ⟨m, hm, .inl hadv⟩
  | succ c => exact leadsTo_advanced_or_shorter hfair hgrow k c

/-- By induction on the micro-steps that are left. -/
theorem leadsTo_hasLeft : LeadsTo states (fun s => ∃ k, s.GoesOnAt a p b k) (State.HasLeft a p b) := by
  refine leadsTo_of_decreases (fun s => (microOps p).length + 1 - (s.agent a).seq.index) fun c n ⟨⟨k, hat⟩, hc⟩ => ?_
  obtain ⟨m, hm, hleft | hat'⟩ := leadsTo_advanced hfair hgrow k n hat
  · exact ⟨m, hm, .inl hleft⟩
  · refine ⟨m, hm, .inr ⟨⟨k + 1, hat'⟩, ?_⟩⟩
    have hle := hat.le_length
    obtain ⟨r, hq⟩ := hat.seq
    obtain ⟨r', hq'⟩ := hat'.seq
    rw [hq, SeqState.index] at hc
    rw [hq', SeqState.index]
    omega

end

/-- Settles O48: an agent that has not stopped goes on at some micro-step, and each is taken. -/
theorem primitiveEndsInFairRun : Obligations.PrimitiveEndsInFairRun := by
  intro states events a p b k r hfair hinv hq hgrow
  cases hs : ((states 0).agent a).stopped with
  | true => exact ⟨0, .inl hs⟩
  | false =>
    obtain ⟨n, -, hleft⟩ := leadsTo_hasLeft hfair hgrow 0 ⟨k, hinv, hs, r, hq⟩
    exact ⟨n, hleft⟩

end Sys2Proof.Machine
end

section
/-! SUPPORT. No event looks at the schedule State keeps: one rule for each shared operation of the meanings, then for each
meaning, micro-step, request and event (00_scope.md R17, assumption log 1). With them the claim that a run of the machine
is a run of events. -/

namespace Sys2Proof.Machine

/-! ### The schedule beside an outcome -/

/-- The outcome with another schedule in its next state. -/
def withSchedule (q : List Event) : Outcome → Outcome
  | .next t    => .next { t with schedule := q }
  | .fault r   => .fault r
  | .refused r => .refused r

/-- Another schedule in the state is another schedule in the outcome, and nothing else. -/
def IgnoresSchedule (f : State → Outcome) : Prop :=
  ∀ (q : List Event) (s : State), f { s with schedule := q } = withSchedule q (f s)

/-- The same of a function of the state alone. -/
def CommutesWithSchedule (k : State → State) : Prop :=
  ∀ (q : List Event) (s : State), k { s with schedule := q } = { k s with schedule := q }

@[simp] theorem me_withSchedule (q : List Event) (s : State) : ({ s with schedule := q } : State).me = s.me := rfl

theorem ignoresSchedule_next {k : State → State} (hk : CommutesWithSchedule k) : IgnoresSchedule fun s => .next (k s) :=
  fun q s => congrArg Host.Outcome.next (hk q s)

/-- A test that does not look at the schedule. -/
theorem ignoresSchedule_ite {c : State → Prop} [DecidablePred c] {f g : State → Outcome}
    (hc : ∀ q s, c { s with schedule := q } ↔ c s) (hf : IgnoresSchedule f) (hg : IgnoresSchedule g) :
    IgnoresSchedule fun s => if c s then f s else g s := by
  intro q s
  by_cases h : c s
  · simp only [(hc q s).2 h, h, if_true, hf q s]
  · simp only [mt (hc q s).1 h, h, if_false, hg q s]

/-! ### The shared operations -/

theorem whenAtRest_ignoresSchedule {f : State → Outcome} (hf : IgnoresSchedule f) : IgnoresSchedule (whenAtRest f) :=
  ignoresSchedule_ite (fun _ _ => .rfl) hf fun _ _ => rfl

theorem writeThen_ignoresSchedule (off : Nat) (w : Word) {k : State → State} (hk : CommutesWithSchedule k) :
    IgnoresSchedule (writeThen off w k) := by
  intro q s
  simp only [writeThen]
  cases checkAccess s.win.status off (some w) with
  | fault r => rfl
  | refuse r => rfl
  | ok b => exact congrArg Host.Outcome.next (hk q (postWrite b off w s))

theorem readThen_ignoresSchedule (off : Nat) {held : State → State} {k : Word → State → State}
    (hh : CommutesWithSchedule held) (hk : ∀ v, CommutesWithSchedule (k v)) :
    IgnoresSchedule (readThen off held k) := by
  intro q s
  simp only [readThen]
  cases checkAccess s.win.status off none with
  | fault r => rfl
  | refuse r => rfl
  | ok b =>
    dsimp only
    split
    · exact congrArg Host.Outcome.next (hk _ q (noteRead off (readValue b s) s))
    · exact congrArg Host.Outcome.next (hh q s)

theorem openThen_ignoresSchedule (phys : Nat) {k : State → State} (hk : CommutesWithSchedule k) :
    IgnoresSchedule (openThen phys k) := by
  intro q s
  simp only [openThen]
  split
  · rfl
  · split
    · rfl
    · next address _ =>
      split
      · exact congrArg Host.Outcome.next (hk q { s with win := { status := .mapped, base := some address } })
      · rfl

theorem closeThen_ignoresSchedule {held k : State → State} (hh : CommutesWithSchedule held)
    (hk : CommutesWithSchedule k) : IgnoresSchedule (closeThen held k) :=
  ignoresSchedule_ite (fun _ _ => .rfl) (ignoresSchedule_next hk) <|
    ignoresSchedule_ite (fun _ _ => .rfl) (fun _ _ => rfl) <|
      ignoresSchedule_ite (fun _ _ => .rfl) (ignoresSchedule_next hh) <|
        ignoresSchedule_next fun q s => hk q { s with win := { status := .closed, base := none } }

/-! ### Requests -/

theorem bareWrite_ignoresSchedule (off : Nat) (w : Word) : IgnoresSchedule (whenAtRest (writeThen off w id)) :=
  whenAtRest_ignoresSchedule (writeThen_ignoresSchedule off w fun _ _ => rfl)

theorem startPrim_ignoresSchedule (p : Prim) (b : Bus) : IgnoresSchedule (startPrim p b) :=
  whenAtRest_ignoresSchedule (ignoresSchedule_ite (fun _ _ => .rfl) (fun _ _ => rfl) fun _ _ => rfl)

theorem detachStep_ignoresSchedule (remaining : List LogicalBus) : IgnoresSchedule (detachStep remaining) :=
  match remaining with
  | [] => closeThen_ignoresSchedule (fun _ _ => rfl) fun _ _ => rfl
  | _ :: _ => fun _ _ => rfl

theorem exec_ignoresSchedule (i : Instr) : IgnoresSchedule (exec i) := by
  cases i with
  | wr32 off w => exact bareWrite_ignoresSchedule off w
  | wr32Ctl b c d => exact bareWrite_ignoresSchedule _ _
  | rd32 off => exact whenAtRest_ignoresSchedule (readThen_ignoresSchedule off (fun _ _ => rfl) fun _ _ _ => rfl)
  | flush off => exact whenAtRest_ignoresSchedule (readThen_ignoresSchedule off (fun _ _ => rfl) fun _ _ _ => rfl)
  | setClk1 b => exact bareWrite_ignoresSchedule _ _
  | setClk0 b => exact bareWrite_ignoresSchedule _ _
  | setDat1 b => exact bareWrite_ignoresSchedule _ _
  | setDat0 b => exact bareWrite_ignoresSchedule _ _
  | relClk b => exact bareWrite_ignoresSchedule _ _
  | relDat b => exact bareWrite_ignoresSchedule _ _
  | latch b => exact bareWrite_ignoresSchedule _ _
  | primSetClk1 b => exact startPrim_ignoresSchedule _ b
  | primSetClk0 b => exact startPrim_ignoresSchedule _ b
  | primSetDat1 b => exact startPrim_ignoresSchedule _ b
  | primSetDat0 b => exact startPrim_ignoresSchedule _ b
  | primGetClk b => exact startPrim_ignoresSchedule _ b
  | primGetDat b => exact startPrim_ignoresSchedule _ b
  | openWin phys => exact whenAtRest_ignoresSchedule (openThen_ignoresSchedule phys fun _ _ => rfl)
  | close => exact whenAtRest_ignoresSchedule (closeThen_ignoresSchedule (fun _ _ => rfl) fun _ _ => rfl)
  | attach phys => exact whenAtRest_ignoresSchedule (openThen_ignoresSchedule phys fun _ _ => rfl)
  | detach => exact whenAtRest_ignoresSchedule fun q s => detachStep_ignoresSchedule s.buses.reverse q s

theorem runRequest_ignoresSchedule (r : Request) : IgnoresSchedule (runRequest r) := by
  cases r with
  | call i => exact exec_ignoresSchedule i
  | acc width w =>
    intro q s
    simp only [runRequest]
    split
    · exact whenAtRest_ignoresSchedule (fun _ _ => rfl) q s
    · cases decode w with
      | ok i => exact exec_ignoresSchedule i q s
      | error e => exact whenAtRest_ignoresSchedule (fun _ _ => rfl) q s

/-! ### Micro-steps -/

theorem attachStep_ignoresSchedule (st : AttachStage) : IgnoresSchedule (attachStep st) := by
  cases st <;> exact fun _ _ => rfl

theorem retryHeld_ignoresSchedule (op : HeldOp) : IgnoresSchedule (retryHeld op) := by
  cases op with
  | read off =>
    exact readThen_ignoresSchedule off (k := fun v t => (deliver (.word v) t).setTask .none) (fun _ _ => rfl)
      fun _ _ _ => rfl
  | flush off =>
    exact readThen_ignoresSchedule off (k := fun _ t => t.setTask .none) (fun _ _ => rfl) fun _ _ _ => rfl
  | close => exact closeThen_ignoresSchedule (k := fun t => t.setTask .none) (fun _ _ => rfl) fun _ _ => rfl

theorem returnPrim_ignoresSchedule (p : Prim) (r : Option Word) : IgnoresSchedule (returnPrim p r) := by
  intro q s
  simp only [returnPrim, me_withSchedule]
  split <;> rfl

theorem primStep_ignoresSchedule (p : Prim) (b : Bus) (k : Nat) (r : Option Word) :
    IgnoresSchedule (primStep p b k r) := by
  intro q s
  simp only [primStep]
  split
  · exact writeThen_ignoresSchedule _ _ (fun _ _ => rfl) q s
  · exact readThen_ignoresSchedule _ (fun _ _ => rfl) (fun _ _ _ => rfl) q s
  · split
    · exact returnPrim_ignoresSchedule p r q s
    · rfl

theorem microStep_ignoresSchedule : IgnoresSchedule microStep := by
  refine ignoresSchedule_ite (fun _ _ => .rfl) (fun _ _ => rfl) fun q s => ?_
  simp only [me_withSchedule]
  split
  · exact primStep_ignoresSchedule _ _ _ _ q s
  · rfl
  · exact retryHeld_ignoresSchedule _ q s
  · exact attachStep_ignoresSchedule _ q s
  · exact detachStep_ignoresSchedule _ q s

/-! ### Events -/

theorem postStep_commutesWithSchedule (b : Bus) : CommutesWithSchedule (postStep b) := by
  intro q s
  simp only [postStep]
  split <;> rfl

theorem runEvent_ignoresSchedule (e : Event) : IgnoresSchedule (runEvent e) := by
  cases e with
  | request a r => exact fun q s => runRequest_ignoresSchedule r q { s with actor := a }
  | micro a => exact fun q s => microStep_ignoresSchedule q { s with actor := a }
  | post b => exact ignoresSchedule_next (postStep_commutesWithSchedule b)
  | peer b l low => exact fun _ _ => rfl
  | settle b l => exact fun _ _ => rfl
  | sample b l => exact fun _ _ => rfl

theorem runEvent_withSchedule {e : Event} {s t : State} (q : List Event) (h : runEvent e s = .next t) :
    runEvent e { s with schedule := q } = .next { t with schedule := q } :=
  (runEvent_ignoresSchedule e q s).trans (congrArg (withSchedule q) h)

/-! ### A run of the machine is a run of events -/

/-- From `s` the machine's next states lead to `t` by events, among them, in order, those taken off the schedule. -/
def State.RunsByEvents (s t : State) : Prop :=
  ∃ es, runAll es { s with schedule := [] } = .next { t with schedule := [] } ∧
    ∃ taken, s.schedule = taken ++ t.schedule ∧ taken.Sublist es

theorem State.RunsByEvents.refl (s : State) : s.RunsByEvents s := ⟨[], rfl, [], rfl, .slnil⟩

theorem State.RunsByEvents.trans {s t u : State} (h : s.RunsByEvents t) (h' : t.RunsByEvents u) : s.RunsByEvents u := by
  obtain ⟨es, hrun, taken, hsched, hsub⟩ := h
  obtain ⟨es', hrun', taken', hsched', hsub'⟩ := h'
  refine ⟨es ++ es', (runAll_append hrun).trans hrun', taken ++ taken', ?_, hsub.append hsub'⟩
  rw [hsched, hsched', List.append_assoc]

theorem step_runsByEvents {s t : State} (h : step s = .next t) : s.RunsByEvents t := by
  obtain ⟨a, -, hr⟩ | ⟨-, -, rfl⟩ | ⟨e, rest, -, hsched, hr⟩ := step_cases h
  · exact ⟨[.micro a], runAll_cons (runEvent_withSchedule [] hr), [], (runEvent_schedule hr).symm, List.nil_sublist _⟩
  · exact .refl t
  · refine ⟨[e], runAll_cons (runEvent_withSchedule (s := { s with schedule := rest }) [] hr), [e], ?_, .refl _⟩
    rw [hsched, runEvent_schedule hr, List.singleton_append]

/-! ### A run of events is a run of the machine that has them scheduled -/

/-- No `ATTACH` has the turn before any of the events. -/
def State.NoTurnDuring (s : State) (es : List Event) : Prop :=
  ∀ k u, k < es.length → runAll (es.take k) s = .next u → u.attachTurn = none

section
variable {s t : State} {e : Event} {es : List Event}

theorem State.NoTurnDuring.attachTurn (h : s.NoTurnDuring (e :: es)) : s.attachTurn = none :=
  h 0 s (Nat.succ_pos _) rfl

theorem State.NoTurnDuring.tail (h : s.NoTurnDuring (e :: es)) (he : runEvent e s = .next t) : t.NoTurnDuring es :=
  fun k u hk hu => h (k + 1) u (Nat.succ_lt_succ hk) ((runAll_cons he).trans hu)

end

/-- By induction on the events: each is the head of the schedule at its turn, and the rest of the schedule waits. -/
theorem run_scheduled (es : List Event) {s : State} (hs : s.schedule = []) (h : s.NoTurnDuring es) :
    Host.Core.run Sys2Proof.core es.length { s with schedule := es } = runAll es s := by
  induction es generalizing s with
  | nil => cases s; cases hs; rfl
  | cons e es ih =>
    have hstep : Sys2Proof.core.step { s with schedule := e :: es } = withSchedule es (runEvent e s) :=
      calc step { s with schedule := e :: es }
        _ = runEvent e { s with schedule := es } :=
            step_of_schedule_cons (s := { s with schedule := e :: es }) h.attachTurn rfl
        _ = withSchedule es (runEvent e s) := runEvent_ignoresSchedule e es s
    simp only [List.length_cons, Host.Core.run, hstep, runAll]
    cases he : runEvent e s with
    | next t => exact ih ((runEvent_schedule he).trans hs) (h.tail he)
    | fault r => rfl
    | refused r => rfl

/-- Settles O9: a step is at most one event, and the steps of a run add up (`State.RunsByEvents.trans`); with no turn of
an `ATTACH` each step takes the head of the schedule (`run_scheduled`). -/
theorem scheduledRunIsEventRun : Obligations.ScheduledRunIsEventRun := by
  refine ⟨fun n s t hrun => ?_, fun es s t hs hturn => ?_⟩
  · exact run_keeps (P := s.RunsByEvents) (fun _ _ h hstep => h.trans (step_runsByEvents hstep)) (.refl s) hrun
  · exact Eq.congr_left (run_scheduled es hs hturn)

end Sys2Proof.Machine
end
